-- ==== Sys2Proof/Word.lean ====
section
/-! DEFINITION. The two word widths of the frame-parser block (00_scope.md R12). -/

namespace Sys2Proof

/-- An 8-bit quantity: a fed byte, `slave_address`, `function_code`, `byte_count`, `error` (R12). -/
abbrev Byte := BitVec 8

/-- A 16-bit quantity: `address`, `quantity`, `crc`, `register_size` (R12). -/
abbrev Word := BitVec 16

end Sys2Proof
end

