-- ==== Sys2Proof/Config.lean ====
section
/-! DEFINITION. The configuration record (10_state.md R40 to R47), the eleven sequencer values, and the free values:
what the spec leaves open and no proof may know. -/

namespace Sys2Proof

/-- `role` (R41): which facade the block is, and so which three of the six dispatch tables it can select. -/
inductive Role where
  | response
  | request
  deriving DecidableEq, Repr, Inhabited

/-- `endianness` (R43): the wire order of the 16-bit fields and of the two CRC bytes. -/
inductive Endianness where
  | big
  | little
  deriving DecidableEq, Repr, Inhabited

/-- The eleven values of the sequencer register `state`, in the order of R30; four of them are also the phase tags a
dispatch table is made of (R180). -/
inductive ParserState where
  | slaveAddress
  | functionCode
  | address
  | quantity
  | byteCount
  | data
  | modbusException
  | firstCRC
  | secondCRC
  | complete
  | error
  deriving DecidableEq, Repr, Inhabited

/-- The configuration record `cfg` (R40): a parameter of every step that no step changes. -/
structure Config where
  role : Role
  /-- `my_slave_address` (R42): 0 accepts every address. -/
  mySlaveAddress : Byte
  endianness : Endianness
  /-- `swap_registers` (R44). -/
  swapRegisters : Bool
  /-- `register_size` (R45), the register width in bytes. -/
  registerSize : Word
  /-- `byte_count_limit` (R46), a natural number of any size. -/
  byteCountLimit : Nat
  deriving DecidableEq, Repr

/-- The configuration the machine stands in at `State.reset`. `endianness = Big` and `byte_count_limit = 96` are the
source's defaults and `swap_registers = false` the spec's (D18); the three OPEN parameters `role`, `my_slave_address` and
`register_size` are DESIGN CHOICE (log entry 1): code 0 each. No claim about the block should rest on them. -/
def Config.atReset : Config where
  role := .response
  mySlaveAddress := 0
  endianness := .big
  swapRegisters := false
  registerSize := 0
  byteCountLimit := 96

/-- The three hidden counters that a rule decrements (R51, R54, R55). -/
inductive HiddenCounter where
  | dataToReceive
  | wptr
  | rcnt
  deriving DecidableEq, Repr

/-- FREE VALUE (log entry 2, DESIGN CHOICE): what a hidden counter holds after a decrement from 0. The spec gives the
decrement and no wrap-around rule (91_not_in_source.md N8); no reachable state decrements a zero counter. -/
opaque Config.decrementOfZero : HiddenCounter → Nat

/-- FREE VALUE (log entry 3, DESIGN CHOICE): the value `advance()` writes to `state` where `dispatch_for` has no table for
the function code, or the table no tag at the new index. R181 defines the tables for sixteen pairs and for nothing else,
while R206 says that a FEED has a result for every register contents; no reachable state meets the case. -/
opaque Config.undefinedNextState : Role → Byte → Nat → ParserState

end Sys2Proof
end

