-- ==== Sys2Proof/Syntax.lean ====
section
/-! DEFINITION. The instruction set in the sense of 00_scope.md R5: one constructor per row of spec/opcode_table.json, and
the items the host presents to the block, from which instructions are decoded. -/

namespace Sys2Proof

/-- One constructor per row of spec/opcode_table.json. A frame kind carries its wire fields (30_encoding.md R101 to R105):
`addr` is the slave-address byte, `crc` the 16-bit value its two CRC bytes spell. -/
inductive Instr where
  /- Frame kinds, Response role (44_frames_response.md). -/
  | rsp01 (addr bc : Byte) (data : List Byte) (crc : Word)
  | rsp02 (addr bc : Byte) (data : List Byte) (crc : Word)
  | rsp03 (addr bc : Byte) (data : List Byte) (crc : Word)
  | rsp04 (addr bc : Byte) (data : List Byte) (crc : Word)
  | rsp05 (addr : Byte) (reg : Word) (val1 val2 : Byte) (crc : Word)
  | rsp06 (addr : Byte) (reg : Word) (val1 val2 : Byte) (crc : Word)
  | rsp0F (addr : Byte) (start qty crc : Word)
  | rsp10 (addr : Byte) (start qty crc : Word)
  | rspExc (addr fc code : Byte)
  | rspIllegal (addr fc : Byte)
  /- Frame kinds, Request role (45_frames_request.md). -/
  | req01 (addr : Byte) (start qty crc : Word)
  | req02 (addr : Byte) (start qty crc : Word)
  | req03 (addr : Byte) (start qty crc : Word)
  | req04 (addr : Byte) (start qty crc : Word)
  | req05 (addr : Byte) (reg : Word) (val1 val2 : Byte) (crc : Word)
  | req06 (addr : Byte) (reg : Word) (val1 val2 : Byte) (crc : Word)
  | req0F (addr : Byte) (start qty : Word) (bc : Byte) (data : List Byte) (crc : Word)
  | req10 (addr : Byte) (start qty : Word) (bc : Byte) (data : List Byte) (crc : Word)
  | reqExc (addr fc code : Byte)
  | reqIllegal (addr fc : Byte)
  /- Host commands (46_host_interface.md). -/
  | nop
  | feed (b : Byte)
  | reset
  | feedn (bs : List Byte)
  /- The CRC unit (40_crc.md). -/
  | crcReset
  | crcFold (b : Byte)
  | crcValue
  /- The payload buffer (41_payload_buffer.md). -/
  | bufAlloc (size : Byte)
  | bufFree
  | bufRead (i : Nat)
  | bufWrite (v : Byte)
  /- Dispatch (42_dispatch.md). -/
  | dispatchFor (role : Role) (fc : Byte)
  | advance
  /- The nine engine handlers (43_engine.md). -/
  | hSlaveAddress (b : Byte)
  | hFunctionCode (b : Byte)
  | hAddress (b : Byte)
  | hQuantity (b : Byte)
  | hByteCount (b : Byte)
  | hData (b : Byte)
  | hModbusException (b : Byte)
  | hFirstCRC (b : Byte)
  | hSecondCRC (b : Byte)
  deriving DecidableEq, Repr

/-- What the host presents next: a command-port transaction (R128), one frame's bytes taken whole (R100), or the byte
sequence of a FEEDN, which has no code of its own (R264) and stands as a line of the host's script (R130). -/
inductive FetchItem where
  | port (cmdOp : BitVec 2) (din : Byte)
  | frame (bytes : List Byte)
  | bulk (bytes : List Byte)
  deriving DecidableEq, Repr

/-- Why an item decodes to no instruction. -/
inductive DecodeError where
  /-- `cmd_op = 11` (R128). -/
  | unassignedCommand
  /-- The bytes end before the frame their function code opens (R120). -/
  | truncatedFrame
  /-- Bytes follow the frame's last byte. -/
  | trailingBytes
  deriving DecidableEq, Repr

end Sys2Proof
end

