-- ==== Sys2Proof/WellFormed.lean ====
section
/-! DEFINITION. Which operand values the spec gives an instruction. -/

namespace Sys2Proof

/-- "`0x01, 0x02, 0x03, 0x04, 0x05, 0x06, 0x0F, 0x10`" (R110). -/
def supportedCodes : List Byte := [0x01, 0x02, 0x03, 0x04, 0x05, 0x06, 0x0F, 0x10]

/-- The operand checks of an instruction: the payload has the declared length (R101, R104), an exception frame's code has
bit 7 set (R112), an illegal frame's code is none of the others (R113), an allocation has size 1..255 (R162), and
`dispatch_for` is asked for a supported code (R181). -/
def WellFormed : Instr → Bool
  | .rsp01 _ bc data _ => data.length == bc.toNat
  | .rsp02 _ bc data _ => data.length == bc.toNat
  | .rsp03 _ bc data _ => data.length == bc.toNat
  | .rsp04 _ bc data _ => data.length == bc.toNat
  | .rsp05 _ _ _ _ _ => true
  | .rsp06 _ _ _ _ _ => true
  | .rsp0F _ _ _ _ => true
  | .rsp10 _ _ _ _ => true
  | .rspExc _ fc _ => fc.msb
  | .rspIllegal _ fc => !fc.msb && !supportedCodes.contains fc
  | .req01 _ _ _ _ => true
  | .req02 _ _ _ _ => true
  | .req03 _ _ _ _ => true
  | .req04 _ _ _ _ => true
  | .req05 _ _ _ _ _ => true
  | .req06 _ _ _ _ _ => true
  | .req0F _ _ _ bc data _ => data.length == bc.toNat
  | .req10 _ _ _ bc data _ => data.length == bc.toNat
  | .reqExc _ fc _ => fc.msb
  | .reqIllegal _ fc => !fc.msb && !supportedCodes.contains fc
  | .nop => true
  | .feed _ => true
  | .reset => true
  | .feedn _ => true
  | .crcReset => true
  | .crcFold _ => true
  | .crcValue => true
  | .bufAlloc size => size != 0
  | .bufFree => true
  | .bufRead _ => true
  | .bufWrite _ => true
  | .dispatchFor _ fc => supportedCodes.contains fc
  | .advance => true
  | .hSlaveAddress _ => true
  | .hFunctionCode _ => true
  | .hAddress _ => true
  | .hQuantity _ => true
  | .hByteCount _ => true
  | .hData _ => true
  | .hModbusException _ => true
  | .hFirstCRC _ => true
  | .hSecondCRC _ => true

end Sys2Proof
end

