-- ==== Sys2Proof/Decode.lean ====
section
/-! DEFINITION. Decoding (30_encoding.md): the wire order of multi-byte fields, the function-code map, the frame layouts,
the command port, and after them the encoder, written from the same layouts. -/

namespace Sys2Proof

/-! ## Bytes of a 16-bit value (R13) -/

/-- "Low byte" of a 16-bit value, `v[7:0]` (R13). -/
def lowByte (v : Word) : Byte := v.setWidth 8

/-- "High byte" of a 16-bit value, `v[15:8]` (R13). -/
def highByte (v : Word) : Byte := (v >>> 8).setWidth 8

/-- `{hi, lo}` (R13), by explicit shift and OR (R74). -/
def joinBytes (hi lo : Byte) : Word := (hi.setWidth 16 <<< 8) ||| lo.setWidth 16

/-- The first byte of a 16-bit field on the wire (R74). -/
def fieldFirst : Endianness → Word → Byte
  | .big, v => highByte v
  | .little, v => lowByte v

/-- The second byte of a 16-bit field on the wire (R74). -/
def fieldSecond : Endianness → Word → Byte
  | .big, v => lowByte v
  | .little, v => highByte v

/-- The field two wire bytes spell (R74). -/
def fieldOf : Endianness → Byte → Byte → Word
  | .big, b1, b2 => joinBytes b1 b2
  | .little, b1, b2 => joinBytes b2 b1

/-- `crc_first` (R146): the setting named `Big` sends the CRC low byte first (R75). -/
def crcFirst : Endianness → Word → Byte
  | .big, c => lowByte c
  | .little, c => highByte c

/-- `crc_second` (R146). -/
def crcSecond : Endianness → Word → Byte
  | .big, c => highByte c
  | .little, c => lowByte c

/-- The CRC value two wire bytes spell (R75). -/
def crcOf : Endianness → Byte → Byte → Word
  | .big, c1, c2 => joinBytes c2 c1
  | .little, c1, c2 => joinBytes c1 c2

/-! ## Frame layouts, as byte lists -/

/-- Format `BC` (R101). -/
def wireBC (e : Endianness) (addr fc bc : Byte) (data : List Byte) (crc : Word) : List Byte :=
  addr :: fc :: bc :: (data ++ [crcFirst e crc, crcSecond e crc])

/-- Format `AV` (R102): the two value bytes are payload and keep wire order (R106). -/
def wireAV (e : Endianness) (addr fc : Byte) (reg : Word) (val1 val2 : Byte) (crc : Word) : List Byte :=
  [addr, fc, fieldFirst e reg, fieldSecond e reg, val1, val2, crcFirst e crc, crcSecond e crc]

/-- Format `AQ` (R103). -/
def wireAQ (e : Endianness) (addr fc : Byte) (start qty crc : Word) : List Byte :=
  [addr, fc, fieldFirst e start, fieldSecond e start, fieldFirst e qty, fieldSecond e qty,
    crcFirst e crc, crcSecond e crc]

/-- Format `AQBD` (R104). -/
def wireAQBD (e : Endianness) (addr fc : Byte) (start qty : Word) (bc : Byte) (data : List Byte) (crc : Word) :
    List Byte :=
  addr :: fc :: fieldFirst e start :: fieldSecond e start :: fieldFirst e qty :: fieldSecond e qty :: bc ::
    (data ++ [crcFirst e crc, crcSecond e crc])

/-- Format `EXC` (R105): the block consumes three bytes. -/
def wireEXC (addr fc code : Byte) : List Byte := [addr, fc, code]

/-- An illegal function code ends the frame on its second byte (R239). -/
def wireIllegal (addr fc : Byte) : List Byte := [addr, fc]

/-! ## Reading a frame -/

/-- A payload of `n` bytes and the two CRC bytes after it. -/
def readTail (e : Endianness) (n : Nat) (mk : List Byte → Word → Instr) (bs : List Byte) :
    Except DecodeError (Instr × List Byte) :=
  match bs.drop n with
  | c1 :: c2 :: rest => .ok (mk (bs.take n) (crcOf e c1 c2), rest)
  | _ => .error .truncatedFrame

/-- The bytes after the function code of format `BC` (R101). -/
def readBC (e : Endianness) (mk : Byte → List Byte → Word → Instr) :
    List Byte → Except DecodeError (Instr × List Byte)
  | bc :: rest => readTail e bc.toNat (mk bc) rest
  | _ => .error .truncatedFrame

/-- The bytes after the function code of format `AV` (R102). -/
def readAV (e : Endianness) (mk : Word → Byte → Byte → Word → Instr) :
    List Byte → Except DecodeError (Instr × List Byte)
  | r1 :: r2 :: v1 :: v2 :: c1 :: c2 :: rest => .ok (mk (fieldOf e r1 r2) v1 v2 (crcOf e c1 c2), rest)
  | _ => .error .truncatedFrame

/-- The bytes after the function code of format `AQ` (R103). -/
def readAQ (e : Endianness) (mk : Word → Word → Word → Instr) :
    List Byte → Except DecodeError (Instr × List Byte)
  | s1 :: s2 :: q1 :: q2 :: c1 :: c2 :: rest =>
    .ok (mk (fieldOf e s1 s2) (fieldOf e q1 q2) (crcOf e c1 c2), rest)
  | _ => .error .truncatedFrame

/-- The bytes after the function code of format `AQBD` (R104). -/
def readAQBD (e : Endianness) (mk : Word → Word → Byte → List Byte → Word → Instr) :
    List Byte → Except DecodeError (Instr × List Byte)
  | s1 :: s2 :: q1 :: q2 :: bc :: rest =>
    readTail e bc.toNat (mk (fieldOf e s1 s2) (fieldOf e q1 q2) bc) rest
  | _ => .error .truncatedFrame

/-- The bytes after the function code of format `EXC` (R105). -/
def readEXC (mk : Byte → Instr) : List Byte → Except DecodeError (Instr × List Byte)
  | code :: rest => .ok (mk code, rest)
  | _ => .error .truncatedFrame

/-- The function-code map (R110, R111), in its order: bit 7 first, then the eight supported codes, then everything
else. `rest` is what follows the function code; the answer holds what follows the frame. -/
def decodeBody (cfg : Config) (addr fc : Byte) (rest : List Byte) : Except DecodeError (Instr × List Byte) :=
  match cfg.role with
  | .response =>
    if fc.msb then readEXC (.rspExc addr fc) rest
    else match fc.toNat with
      | 0x01 => readBC cfg.endianness (.rsp01 addr) rest
      | 0x02 => readBC cfg.endianness (.rsp02 addr) rest
      | 0x03 => readBC cfg.endianness (.rsp03 addr) rest
      | 0x04 => readBC cfg.endianness (.rsp04 addr) rest
      | 0x05 => readAV cfg.endianness (.rsp05 addr) rest
      | 0x06 => readAV cfg.endianness (.rsp06 addr) rest
      | 0x0F => readAQ cfg.endianness (.rsp0F addr) rest
      | 0x10 => readAQ cfg.endianness (.rsp10 addr) rest
      | _ => .ok (.rspIllegal addr fc, rest)
  | .request =>
    if fc.msb then readEXC (.reqExc addr fc) rest
    else match fc.toNat with
      | 0x01 => readAQ cfg.endianness (.req01 addr) rest
      | 0x02 => readAQ cfg.endianness (.req02 addr) rest
      | 0x03 => readAQ cfg.endianness (.req03 addr) rest
      | 0x04 => readAQ cfg.endianness (.req04 addr) rest
      | 0x05 => readAV cfg.endianness (.req05 addr) rest
      | 0x06 => readAV cfg.endianness (.req06 addr) rest
      | 0x0F => readAQBD cfg.endianness (.req0F addr) rest
      | 0x10 => readAQBD cfg.endianness (.req10 addr) rest
      | _ => .ok (.reqIllegal addr fc, rest)

/-- The first frame of a byte list and what follows it; byte 0 is the slave address, byte 1 the function code (R100). -/
def decodeFrame (cfg : Config) : List Byte → Except DecodeError (Instr × List Byte)
  | addr :: fc :: rest => decodeBody cfg addr fc rest
  | _ => .error .truncatedFrame

/-- The command port (R128): `00` NOP, `01` FEED, `10` RESET, `11` not assigned. -/
def decodePort (cmdOp : BitVec 2) (din : Byte) : Except DecodeError Instr :=
  match cmdOp.toNat with
  | 0 => .ok .nop
  | 1 => .ok (.feed din)
  | 2 => .ok .reset
  | _ => .error .unassignedCommand

/-- What an item means under a configuration. A frame item holds exactly one frame. -/
def decode (cfg : Config) : FetchItem → Except DecodeError Instr
  | .port cmdOp din => decodePort cmdOp din
  | .frame bytes =>
    match decodeFrame cfg bytes with
    | .ok (i, []) => .ok i
    | .ok (_, _ :: _) => .error .trailingBytes
    | .error e => .error e
  | .bulk bytes => .ok (.feedn bytes)

/-! ## The encoder -/

/-- A frame kind is encoded only for a block of its role: its row applies when `cfg.role` equals the row's (R116). -/
def frameFor (cfg : Config) (role : Role) (bytes : List Byte) : Option FetchItem :=
  if cfg.role = role then some (.frame bytes) else none

/-- The item that stands for an instruction; `none` for the operations the table gives no encoding (R116). A command that
ignores `din` is written with `din = 0`. -/
def encode (cfg : Config) : Instr → Option FetchItem
  | .rsp01 addr bc data crc => frameFor cfg .response (wireBC cfg.endianness addr 0x01 bc data crc)
  | .rsp02 addr bc data crc => frameFor cfg .response (wireBC cfg.endianness addr 0x02 bc data crc)
  | .rsp03 addr bc data crc => frameFor cfg .response (wireBC cfg.endianness addr 0x03 bc data crc)
  | .rsp04 addr bc data crc => frameFor cfg .response (wireBC cfg.endianness addr 0x04 bc data crc)
  | .rsp05 addr reg v1 v2 crc => frameFor cfg .response (wireAV cfg.endianness addr 0x05 reg v1 v2 crc)
  | .rsp06 addr reg v1 v2 crc => frameFor cfg .response (wireAV cfg.endianness addr 0x06 reg v1 v2 crc)
  | .rsp0F addr start qty crc => frameFor cfg .response (wireAQ cfg.endianness addr 0x0F start qty crc)
  | .rsp10 addr start qty crc => frameFor cfg .response (wireAQ cfg.endianness addr 0x10 start qty crc)
  | .rspExc addr fc code => frameFor cfg .response (wireEXC addr fc code)
  | .rspIllegal addr fc => frameFor cfg .response (wireIllegal addr fc)
  | .req01 addr start qty crc => frameFor cfg .request (wireAQ cfg.endianness addr 0x01 start qty crc)
  | .req02 addr start qty crc => frameFor cfg .request (wireAQ cfg.endianness addr 0x02 start qty crc)
  | .req03 addr start qty crc => frameFor cfg .request (wireAQ cfg.endianness addr 0x03 start qty crc)
  | .req04 addr start qty crc => frameFor cfg .request (wireAQ cfg.endianness addr 0x04 start qty crc)
  | .req05 addr reg v1 v2 crc => frameFor cfg .request (wireAV cfg.endianness addr 0x05 reg v1 v2 crc)
  | .req06 addr reg v1 v2 crc => frameFor cfg .request (wireAV cfg.endianness addr 0x06 reg v1 v2 crc)
  | .req0F addr start qty bc data crc =>
    frameFor cfg .request (wireAQBD cfg.endianness addr 0x0F start qty bc data crc)
  | .req10 addr start qty bc data crc =>
    frameFor cfg .request (wireAQBD cfg.endianness addr 0x10 start qty bc data crc)
  | .reqExc addr fc code => frameFor cfg .request (wireEXC addr fc code)
  | .reqIllegal addr fc => frameFor cfg .request (wireIllegal addr fc)
  | .nop => some (.port 0 0)
  | .feed b => some (.port 1 b)
  | .reset => some (.port 2 0)
  | .feedn bs => some (.bulk bs)
  | .crcReset => none
  | .crcFold _ => none
  | .crcValue => none
  | .bufAlloc _ => none
  | .bufFree => none
  | .bufRead _ => none
  | .bufWrite _ => none
  | .dispatchFor _ _ => none
  | .advance => none
  | .hSlaveAddress _ => none
  | .hFunctionCode _ => none
  | .hAddress _ => none
  | .hQuantity _ => none
  | .hByteCount _ => none
  | .hData _ => none
  | .hModbusException _ => none
  | .hFirstCRC _ => none
  | .hSecondCRC _ => none

/-! ## Words numbered as the opcode table numbers them -/

/-- The bytes of a table word, bit 0 the least significant bit of the first. -/
def tableBytes (nbits w : Nat) : List Byte :=
  (List.range ((nbits + 7) / 8)).map fun k => BitVec.ofNat 8 (w >>> (8 * k))

/-- The item a table word stands for (log entry 4, DESIGN CHOICE). The table's frame rows give the function-code byte and
its command rows `cmd_op`, two code spaces that share words, so: a 16-bit word whose first byte is below 4, and the 8-bit
words 0 and 1, are `cmd_op` (then `din`); every other word is the function code of a frame (then its further bytes), whose
address byte and remaining bytes are 0, read under `Config.atReset`. -/
def tableItem (nbits w : Nat) : FetchItem :=
  match tableBytes nbits w with
  | [] => .frame []
  | op :: operands =>
    if (operands ≠ [] ∧ op.toNat < 4) ∨ op.toNat < 2 then .port (op.setWidth 2) (operands.headD 0)
    else
      let bytes := 0 :: op :: (operands ++ List.replicate 264 0)
      match decodeFrame Config.atReset bytes with
      | .ok (_, rest) => .frame (bytes.take (bytes.length - rest.length))
      | .error _ => .frame bytes

/-- The instruction the decoder reads from an opcode-table word. -/
def decodeTableWord (nbits w : Nat) : Option Instr :=
  match decode Config.atReset (tableItem nbits w) with
  | .ok i => some i
  | .error _ => none

end Sys2Proof
end

