-- ==== Sys2Proof/Machine/State.lean ====
section
/-! DEFINITION. The machine's state (10_state.md R20), the ways a step can stop, and the state after reset (R60). -/

namespace Sys2Proof.Machine

/-- The payload buffer's contents: (index, byte) pairs, indices strictly rising; an index not listed has no value (R56). -/
abbrev Memory := List Host.Cell

/-- The two event outputs (60_exceptions.md R305). -/
inductive Event where
  | onComplete
  | onError
  deriving DecidableEq, Repr

/-- What the last operation that returns something returned (log entry 6). -/
inductive Returned where
  /-- Nothing has been returned since power-on. -/
  | nothing
  /-- The number of bytes a FEEDN consumed (R264). -/
  | count (n : Nat)
  /-- The CRC register (R143). -/
  | crc (c : Word)
  /-- One payload byte (R164). -/
  | byte (b : Byte)
  /-- A dispatch table (R181). -/
  | table (t : List ParserState)
  deriving DecidableEq, Repr

/-- What a composite is made for: one frame's bytes, or the bytes of a FEEDN, which alone returns a count. -/
inductive DeliveryKind where
  | frame
  | feedn
  deriving DecidableEq, Repr

/-- A composite of FEED commands in progress (R131, R264): the bytes not yet fed, next first, and how many were. -/
structure Delivery where
  kind : DeliveryKind
  rest : List Byte
  consumed : Nat
  deriving DecidableEq, Repr

/-- Everything the spec gives the block (R20), its configuration (R40), and four fields of the model's own for what
crosses the block's boundary: the host's script, the composite the host is in the middle of, the events emitted, the last
value returned (log entries 5, 9, 7, 6). -/
structure State where
  /-- `cfg` (R40 to R46). -/
  cfg : Config
  /-- `slave_address` (R21). -/
  slaveAddress : Byte
  /-- `function_code` (R22). -/
  functionCode : Byte
  /-- `address` (R23). -/
  address : Word
  /-- `quantity` (R24). -/
  quantity : Word
  /-- `byte_count` (R25). -/
  byteCount : Byte
  /-- `crc` (R27). -/
  crc : Word
  /-- `error`, an ErrorKind code (R28, R125). -/
  error : Byte
  /-- `state` (R30). -/
  state : ParserState
  /-- `phase_idx` (R50). -/
  phaseIdx : Nat
  /-- `data_to_receive` (R51). -/
  dataToReceive : Nat
  /-- `buf_alloc` (R52). -/
  bufAlloc : Bool
  /-- `data_len` (R53). -/
  dataLen : Nat
  /-- `wptr` (R54). -/
  wptr : Nat
  /-- `rcnt` (R55). -/
  rcnt : Nat
  /-- `buf` (R56). -/
  buf : Memory
  /-- The model's own: what the host will present, next first (log entry 5). -/
  script : List FetchItem
  /-- The model's own: the FEEDN or the frame whose next FEED is the next step, if any (log entry 9). -/
  delivery : Option Delivery
  /-- The model's own: the events emitted since power-on, oldest first (log entry 7). -/
  events : List Event
  /-- The model's own: the value most recently returned (log entry 6). -/
  returned : Returned
  deriving DecidableEq, Repr

/-- Model-level faults (R312): the run has no further state. -/
inductive Fault where
  /-- A payload write at an index outside the allocation (R165, D14). Raised by BUF.WRITE and whatever runs it. Safe. -/
  | bufferOverrun
  /-- A read of a payload byte that has no value (R164, D12). Raised by BUF.READ. Safe. -/
  | unwrittenRead
  deriving DecidableEq, Repr

/-- Refusals (R312): the model gives the configuration, the command or the operand no meaning. -/
inductive Refusal where
  /-- An instruction with no meaning yet; raised by `exec` alone. Safe. -/
  | notModelled (mnemonic : String)
  /-- The configuration is outside its legal values (R40, R42, R45). Raised by every instruction. Safe. -/
  | illegalConfiguration
  /-- The presented item is no instruction (R128 for `cmd_op = 11`). Raised by `step`. Safe. -/
  | undecoded (reason : DecodeError)
  /-- `data()` has no element at this index (R164, R312 (d)). Raised by BUF.READ. Safe. -/
  | noSuchElement
  /-- `dispatch_for` is defined for the supported codes and for nothing else (R181). Raised by DISPATCH_FOR. Safe. -/
  | noDispatchTable
  deriving DecidableEq, Repr

/-- The state after reset and at power-on (R60, R263), in the configuration `Config.atReset`, with nothing yet
presented, in progress, emitted or returned. -/
def State.reset : State where
  cfg := Config.atReset
  slaveAddress := 0
  functionCode := 0
  address := 0
  quantity := 0
  byteCount := 0
  crc := 0xFFFF
  error := 0
  state := .slaveAddress
  phaseIdx := 0
  dataToReceive := 0
  bufAlloc := false
  dataLen := 0
  wptr := 0
  rcnt := 0
  buf := []
  script := []
  delivery := none
  events := []
  returned := .nothing

/-- What an instruction's meaning answers. -/
abbrev Result := Host.Outcome State Fault Refusal

end Sys2Proof.Machine
end

