-- ==== Sys2Proof/Machine/Ops.lean ====
section
/-! DEFINITION. The named operations: the buffer's memory, the CRC fold, dispatch stepping, the two terminal entries, reset.
Taking the block's exception is `raiseError` (R300); leaving a terminal state is `resetBlock` (R309). -/

namespace Sys2Proof.Machine

/-! ## The payload memory -/

/-- The canonical form: indices strictly rising. -/
def Memory.wf : Memory → Bool
  | [] => true
  | [_] => true
  | a :: b :: rest => decide (a.1 < b.1) && Memory.wf (b :: rest)

/-- What index `i` holds: a byte, or no value (R56). -/
def memRead : Memory → Nat → Option Byte
  | [], _ => none
  | c :: rest, i => if c.1 = i then some c.2 else memRead rest i

/-- Index `i` holds `v` afterwards. -/
def memWrite : Memory → Nat → Byte → Memory
  | [], i, v => [(i, v)]
  | c :: rest, i, v =>
    if i < c.1 then (i, v) :: c :: rest
    else if i = c.1 then (i, v) :: rest
    else c :: memWrite rest i v

/-! ## Configuration -/

/-- The legal configurations (R42, R45; R312 (c)). -/
def configLegal (c : Config) : Bool :=
  decide (c.mySlaveAddress.toNat ≤ 247) && !(c.swapRegisters && c.registerSize == 0)

/-- "A `cfg` outside the legal values below is refused: the model gives no meaning to a run with it" (R40). -/
def withLegalConfig (s : State) (r : Result) : Result :=
  if configLegal s.cfg then r else .refused .illegalConfiguration

/-- The block at power-on in a configuration (R263): no command is needed, the configuration is supplied. -/
def State.powerOn (c : Config) : State := { State.reset with cfg := c }

/-! ## The CRC accumulator -/

/-- One iteration of the loop of R142: shift right, and XOR the polynomial when the bit shifted out was 1. -/
def crcShift (c : Word) : Word :=
  if c.getLsbD 0 then (c >>> 1) ^^^ 0xA001 else c >>> 1

/-- `n` iterations. -/
def crcShifts : Nat → Word → Word
  | 0, c => c
  | n + 1, c => crcShifts n (crcShift c)

/-- `fold(b)` (R142): the byte goes into the low byte, then eight iterations. -/
def crcFoldByte (c : Word) (b : Byte) : Word := crcShifts 8 (c ^^^ b.setWidth 16)

/-- The CRC of a byte sequence from the initial value `0xFFFF` (R140). -/
def crcOfBytes (bs : List Byte) : Word := bs.foldl crcFoldByte 0xFFFF

/-- The accumulator's fold as the block performs it: `crc` is read and written (R142). -/
def foldCrc (b : Byte) (s : State) : State := { s with crc := crcFoldByte s.crc b }

/-! ## Events, terminal entries, reset -/

/-- `raise Error(k)` (R300). -/
def raiseError (k : Byte) (s : State) : State :=
  { s with error := k, state := .error, events := s.events ++ [.onError] }

/-- Completion entry (R301). -/
def completeFrame (s : State) : State :=
  { s with state := .complete, events := s.events ++ [.onComplete] }

/-- `free()` (R163). -/
def freeBuffer (s : State) : State :=
  { s with bufAlloc := false, dataLen := 0, wptr := 0, rcnt := 0, buf := [] }

/-- `reset()` (R262). The configuration is not touched and no event is emitted. -/
def resetBlock (s : State) : State :=
  freeBuffer { s with
    crc := 0xFFFF, error := 0, state := .slaveAddress,
    slaveAddress := 0, functionCode := 0, address := 0, quantity := 0, byteCount := 0,
    phaseIdx := 0, dataToReceive := 0 }

/-! ## Hidden counters -/

/-- A hidden counter after `- 1`. From 0 the spec states no value: a free value (log entry 2). -/
def decrement (k : HiddenCounter) : Nat → Nat
  | 0 => Config.decrementOfZero k
  | n + 1 => n

/-! ## The payload buffer -/

/-- `alloc(size)` (R162). -/
def allocBuffer (size : Nat) (s : State) : State :=
  { s with
    bufAlloc := true
    dataLen := size
    buf := []
    wptr := if s.cfg.swapRegisters then s.cfg.registerSize.toNat - 1 else 0
    rcnt := if s.cfg.swapRegisters then s.cfg.registerSize.toNat else 0 }

/-- `wptr` and `rcnt` after a byte is stored (R165). -/
def moveCursor (s : State) : State :=
  if s.cfg.swapRegisters then
    if s.rcnt = 1 then
      { s with wptr := s.wptr + 2 * s.cfg.registerSize.toNat - 1, rcnt := s.cfg.registerSize.toNat }
    else
      { s with wptr := decrement .wptr s.wptr, rcnt := decrement .rcnt s.rcnt }
  else
    { s with wptr := s.wptr + 1 }

/-- `put(v)` (R165). -/
def putByte (v : Byte) (s : State) : Result :=
  if s.dataLen ≤ s.wptr then .fault .bufferOverrun
  else .next (moveCursor { s with buf := memWrite s.buf s.wptr v })

/-- The value an operation hands back to its caller (log entry 6). -/
def giveBack (r : Returned) (s : State) : State := { s with returned := r }

/-- `MemRead(i, 1)` (R164). -/
def readByte (i : Nat) (s : State) : Result :=
  if s.dataLen ≤ i then .refused .noSuchElement
  else match memRead s.buf i with
    | none => .fault .unwrittenRead
    | some b => .next (giveBack (.byte b) s)

/-! ## Dispatch -/

/-- `dispatch_for(role, fc)` (R181) with the six tables (R182 to R187). -/
def phaseTable (role : Role) (fc : Byte) : Option (List ParserState) :=
  match role, fc.toNat with
  | .response, 0x01 => some [.byteCount, .data]
  | .response, 0x02 => some [.byteCount, .data]
  | .response, 0x03 => some [.byteCount, .data]
  | .response, 0x04 => some [.byteCount, .data]
  | .response, 0x05 => some [.address, .address, .data]
  | .response, 0x06 => some [.address, .address, .data]
  | .response, 0x0F => some [.address, .address, .quantity, .quantity]
  | .response, 0x10 => some [.address, .address, .quantity, .quantity]
  | .request, 0x01 => some [.address, .address, .quantity, .quantity]
  | .request, 0x02 => some [.address, .address, .quantity, .quantity]
  | .request, 0x03 => some [.address, .address, .quantity, .quantity]
  | .request, 0x04 => some [.address, .address, .quantity, .quantity]
  | .request, 0x05 => some [.address, .address, .data]
  | .request, 0x06 => some [.address, .address, .data]
  | .request, 0x0F => some [.address, .address, .quantity, .quantity, .byteCount, .data]
  | .request, 0x10 => some [.address, .address, .quantity, .quantity, .byteCount, .data]
  | _, _ => none

/-- What `state` becomes at phase index `p` (R188): `FirstCRC` past the last tag, else the tag. Without a table or a tag
there the spec states no value: a free value (log entry 3). -/
def stateAtPhase (role : Role) (fc : Byte) (p : Nat) : ParserState :=
  match phaseTable role fc with
  | none => Config.undefinedNextState role fc p
  | some t =>
    if p = t.length then .firstCRC
    else match t[p]? with
      | some tag => tag
      | none => Config.undefinedNextState role fc p

/-- `advance()` (R188). -/
def advancePhase (s : State) : State :=
  { s with
    phaseIdx := s.phaseIdx + 1
    state := stateAtPhase s.cfg.role s.functionCode (s.phaseIdx + 1) }

/-! ## Sequencing -/

/-- Go on from a next state; stop where the first part stopped. -/
def andThen (r : Result) (k : State → Result) : Result :=
  match r with
  | .next s => k s
  | .fault f => .fault f
  | .refused x => .refused x

end Sys2Proof.Machine
end

