-- ==== Sys2Proof/Machine/Operands.lean ====
section
/-! DEFINITION. The operand forms: a byte written into one half of a 16-bit field, and the address test. -/

namespace Sys2Proof.Machine

/-- Whether the byte at phase index `p` is the first of its field (R189: "A model may use `p mod 2 == 0`"). -/
def isFirstByte (p : Nat) : Bool := p % 2 == 0

/-- A 16-bit field after one of its two wire bytes: each byte writes its own half (R199, D30), the high half when it is
the first under `Big` or the second under `Little`. -/
def writeHalf (e : Endianness) (first : Bool) (field : Word) (b : Byte) : Word :=
  if first == (e == .big) then joinBytes b (lowByte field) else joinBytes (highByte field) b

/-- The address test of the `SlaveAddress` handler (R197, R114). -/
def acceptsAddress (c : Config) (b : Byte) : Bool :=
  b == c.mySlaveAddress || c.mySlaveAddress == 0

/-- The index the k-th payload byte of a frame is stored at (R76, R166). -/
def payloadIndex (c : Config) (k : Nat) : Nat :=
  if c.swapRegisters then
    c.registerSize.toNat * (k / c.registerSize.toNat) + (c.registerSize.toNat - 1 - k % c.registerSize.toNat)
  else k

end Sys2Proof.Machine
end

