-- ==== Sys2Proof/Machine/Flags.lean ====
section
/-! DEFINITION. The two flags (R33), the numeric codes (R125 to R127) and the host's read-only accessors (R270). -/

namespace Sys2Proof.Machine

/-- Codes of `state` (R126). -/
def stateCode : ParserState → BitVec 4
  | .slaveAddress => 0
  | .functionCode => 1
  | .address => 2
  | .quantity => 3
  | .byteCount => 4
  | .data => 5
  | .modbusException => 6
  | .firstCRC => 7
  | .secondCRC => 8
  | .complete => 9
  | .error => 10

/-- Codes of `role` (R127). -/
def roleCode : Role → BitVec 1
  | .response => 0
  | .request => 1

/-- Codes of `endianness` (R127). -/
def endiannessCode : Endianness → BitVec 1
  | .big => 0
  | .little => 1

/-- `IllegalFunction` (R125, R291). -/
def illegalFunction : Byte := 1

/-- `IllegalDataValue` (R125, R292). -/
def illegalDataValue : Byte := 3

/-- `CRCError` (R125, R293). -/
def crcError : Byte := 21

/-- `is_complete` (R33). -/
def isComplete (s : State) : Bool := s.state == .complete

/-- `is_error` (R33): the state, never the error register (D4). -/
def isError (s : State) : Bool := s.state == .error

/-- `Complete` and `Error` are terminal (R32). -/
def isTerminal (s : State) : Bool := isComplete s || isError s

/-- `state()` (R270). -/
def accState (s : State) : BitVec 4 := stateCode s.state

/-- `slave_address()` (R270). -/
def accSlaveAddress (s : State) : Byte := s.slaveAddress

/-- `function_code()` (R270). -/
def accFunctionCode (s : State) : Byte := s.functionCode

/-- `address()` (R270). -/
def accAddress (s : State) : Word := s.address

/-- `quantity()` (R270). -/
def accQuantity (s : State) : Word := s.quantity

/-- `byte_count()` (R270). -/
def accByteCount (s : State) : Byte := s.byteCount

/-- `data()` (R270, R274): its length is `data_len`; an element not yet written has no value. -/
def accData (s : State) : List (Option Byte) := (List.range s.dataLen).map (memRead s.buf)

/-- `crc()` (R270, R275): the accumulator. -/
def accCrc (s : State) : Word := s.crc

/-- `error_kind()` (R270). -/
def accErrorKind (s : State) : Byte := s.error

end Sys2Proof.Machine
end

