-- ==== Sys2Proof/Machine/CrcUnit.lean ====
section
/-! DEFINITION. The meanings of the CRC unit's operations (40_crc.md). -/

namespace Sys2Proof.Machine

/-- CRC.RESET (R141). -/
def execCrcReset (s : State) : Result := withLegalConfig s (.next { s with crc := 0xFFFF })

/-- CRC.FOLD (R142). -/
def execCrcFold (b : Byte) (s : State) : Result := withLegalConfig s (.next (foldCrc b s))

/-- CRC.VALUE (R143). -/
def execCrcValue (s : State) : Result := withLegalConfig s (.next (giveBack (.crc s.crc) s))

end Sys2Proof.Machine
end

