-- ==== Sys2Proof/Machine/Engine.lean ====
section
/-! DEFINITION. The nine engine handlers (43_engine.md R197 to R205), the FEED step over them (R195), and their meanings as
instructions. -/

namespace Sys2Proof.Machine

/-- Handler `SlaveAddress` (R197); a noise byte changes nothing at all (D21). -/
def onSlaveAddress (b : Byte) (s : State) : State :=
  if acceptsAddress s.cfg b then
    { foldCrc b s with slaveAddress := b, state := .functionCode }
  else s

/-- Handler `FunctionCode` (R198): bit 7 first (D6), then the supported codes, then the rest; only a supported code is
recorded and folded (D9). -/
def onFunctionCode (b : Byte) (s : State) : State :=
  if b.msb then { s with state := .modbusException }
  else if supportedCodes.contains b then
    { foldCrc b s with
      functionCode := b
      phaseIdx := 0
      state := stateAtPhase s.cfg.role b 0 }
  else raiseError illegalFunction s

/-- Handler `Address` (R199). -/
def onAddress (b : Byte) (s : State) : State :=
  advancePhase (foldCrc b
    { s with address := writeHalf s.cfg.endianness (isFirstByte s.phaseIdx) s.address b })

/-- Handler `Quantity` (R200): written and folded first, then the zero test on the second byte (D11). -/
def onQuantity (b : Byte) (s : State) : State :=
  let t := foldCrc b
    { s with quantity := writeHalf s.cfg.endianness (isFirstByte s.phaseIdx) s.quantity b }
  if !isFirstByte s.phaseIdx && t.quantity == 0 then raiseError illegalDataValue t else advancePhase t

/-- Handler `ByteCount` (R201). -/
def onByteCount (b : Byte) (s : State) : State :=
  if b = 0 then raiseError illegalDataValue s
  else if s.cfg.byteCountLimit < b.toNat then raiseError illegalDataValue s
  else advancePhase (foldCrc b { s with byteCount := b, dataToReceive := b.toNat })

/-- The allocation on the first byte of a `Data` run (R202): the implicit path sets `data_to_receive` to 2 first (R190). -/
def enterData (s : State) : State :=
  if s.bufAlloc then s
  else
    let n := if s.dataToReceive = 0 then 2 else s.dataToReceive
    allocBuffer n { s with dataToReceive := n }

/-- What follows the store in the `Data` handler (R202). -/
def finishData (b : Byte) (s : State) : State :=
  let t := foldCrc b { s with dataToReceive := decrement .dataToReceive s.dataToReceive }
  if t.dataToReceive = 0 then advancePhase t else t

/-- Handler `Data` (R202). -/
def onData (b : Byte) (s : State) : Result :=
  andThen (putByte b (enterData s)) fun t => .next (finishData b t)

/-- Handler `ModbusException` (R203): the byte is the code, unchanged (D4). -/
def onModbusException (b : Byte) (s : State) : State := raiseError b s

/-- Handler `FirstCRC` (R204). -/
def onFirstCRC (b : Byte) (s : State) : State :=
  if b = crcFirst s.cfg.endianness s.crc then { s with state := .secondCRC } else raiseError crcError s

/-- Handler `SecondCRC` (R205). -/
def onSecondCRC (b : Byte) (s : State) : State :=
  if b = crcSecond s.cfg.endianness s.crc then
    if s.dataToReceive = 0 then completeFrame s else raiseError illegalDataValue s
  else raiseError crcError s

/-- `feed(b)` (R195): the implicit reset of a terminal state (R196), then the one handler `state` names. -/
def feedByte (b : Byte) (s : State) : Result :=
  match s.state with
  | .slaveAddress => .next (onSlaveAddress b s)
  | .functionCode => .next (onFunctionCode b s)
  | .address => .next (onAddress b s)
  | .quantity => .next (onQuantity b s)
  | .byteCount => .next (onByteCount b s)
  | .data => onData b s
  | .modbusException => .next (onModbusException b s)
  | .firstCRC => .next (onFirstCRC b s)
  | .secondCRC => .next (onSecondCRC b s)
  | .complete => .next (onSlaveAddress b (resetBlock s))
  | .error => .next (onSlaveAddress b (resetBlock s))

/-- The end of a composite of which `n` bytes were consumed: FEEDN returns that number (R264), a frame returns nothing. -/
def endDelivery (k : DeliveryKind) (n : Nat) (s : State) : State :=
  match k with
  | .frame => { s with delivery := none }
  | .feedn => giveBack (.count n) { s with delivery := none }

/-- After the `n`-th byte of a composite, `bs` still to come (R264): `state = Error` or no further byte ends it; otherwise
its next FEED is the next step. -/
def afterByte (k : DeliveryKind) (n : Nat) (bs : List Byte) (s : State) : State :=
  if s.state = .error ∨ bs = [] then endDelivery k n s
  else { s with delivery := some { kind := k, rest := bs, consumed := n } }

/-- One pass of the loop of R264, `n` bytes consumed before it: one FEED, so one step and at most one event (R17). Without a
byte the loop is over. -/
def deliver (k : DeliveryKind) (n : Nat) : List Byte → State → Result
  | [], s => .next (endDelivery k n s)
  | b :: bs, s => andThen (feedByte b s) fun t => .next (afterByte k (n + 1) bs t)

/-- The first step of a frame kind: its wire bytes are fed in order, one FEED a step, and its first error ends it (R290,
R308; log entry 8). -/
def deliverFrame (bs : List Byte) (s : State) : Result := deliver .frame 0 bs s

/-- A further step of the composite in progress. -/
def goOn (d : Delivery) (s : State) : Result := withLegalConfig s (deliver d.kind d.consumed d.rest s)

/-- H.SlaveAddress (R197). -/
def execHSlaveAddress (b : Byte) (s : State) : Result := withLegalConfig s (.next (onSlaveAddress b s))

/-- H.FunctionCode (R198). -/
def execHFunctionCode (b : Byte) (s : State) : Result := withLegalConfig s (.next (onFunctionCode b s))

/-- H.Address (R199). -/
def execHAddress (b : Byte) (s : State) : Result := withLegalConfig s (.next (onAddress b s))

/-- H.Quantity (R200). -/
def execHQuantity (b : Byte) (s : State) : Result := withLegalConfig s (.next (onQuantity b s))

/-- H.ByteCount (R201). -/
def execHByteCount (b : Byte) (s : State) : Result := withLegalConfig s (.next (onByteCount b s))

/-- H.Data (R202). -/
def execHData (b : Byte) (s : State) : Result := withLegalConfig s (onData b s)

/-- H.ModbusException (R203). -/
def execHModbusException (b : Byte) (s : State) : Result := withLegalConfig s (.next (onModbusException b s))

/-- H.FirstCRC (R204). -/
def execHFirstCRC (b : Byte) (s : State) : Result := withLegalConfig s (.next (onFirstCRC b s))

/-- H.SecondCRC (R205). -/
def execHSecondCRC (b : Byte) (s : State) : Result := withLegalConfig s (.next (onSecondCRC b s))

end Sys2Proof.Machine
end

