-- ==== Sys2Proof/Machine/FramesRequest.lean ====
section
/-! DEFINITION. The meanings of the Request role's frame kinds (45_frames_request.md): the bytes of the frame, fed in order, one FEED
a step. Each meaning is the first of those steps; `goOn` is the others. None adds behaviour to the engine's handlers; a block
of the other role parses the same bytes by its own tables. -/

namespace Sys2Proof.Machine

/-- REQ.01 (R245), format `AQ`. -/
def execReq01 (addr : Byte) (start qty crc : Word) (s : State) : Result :=
  withLegalConfig s (deliverFrame (wireAQ s.cfg.endianness addr 0x01 start qty crc) s)

/-- REQ.02 (R246), format `AQ`. -/
def execReq02 (addr : Byte) (start qty crc : Word) (s : State) : Result :=
  withLegalConfig s (deliverFrame (wireAQ s.cfg.endianness addr 0x02 start qty crc) s)

/-- REQ.03 (R247), format `AQ`. -/
def execReq03 (addr : Byte) (start qty crc : Word) (s : State) : Result :=
  withLegalConfig s (deliverFrame (wireAQ s.cfg.endianness addr 0x03 start qty crc) s)

/-- REQ.04 (R248), format `AQ`. -/
def execReq04 (addr : Byte) (start qty crc : Word) (s : State) : Result :=
  withLegalConfig s (deliverFrame (wireAQ s.cfg.endianness addr 0x04 start qty crc) s)

/-- REQ.05 (R249), format `AV`. -/
def execReq05 (addr : Byte) (reg : Word) (val1 val2 : Byte) (crc : Word) (s : State) : Result :=
  withLegalConfig s (deliverFrame (wireAV s.cfg.endianness addr 0x05 reg val1 val2 crc) s)

/-- REQ.06 (R250), format `AV`. -/
def execReq06 (addr : Byte) (reg : Word) (val1 val2 : Byte) (crc : Word) (s : State) : Result :=
  withLegalConfig s (deliverFrame (wireAV s.cfg.endianness addr 0x06 reg val1 val2 crc) s)

/-- REQ.0F (R251), format `AQBD`. -/
def execReq0F (addr : Byte) (start qty : Word) (bc : Byte) (data : List Byte) (crc : Word) (s : State) : Result :=
  withLegalConfig s (deliverFrame (wireAQBD s.cfg.endianness addr 0x0F start qty bc data crc) s)

/-- REQ.10 (R252), format `AQBD`. -/
def execReq10 (addr : Byte) (start qty : Word) (bc : Byte) (data : List Byte) (crc : Word) (s : State) : Result :=
  withLegalConfig s (deliverFrame (wireAQBD s.cfg.endianness addr 0x10 start qty bc data crc) s)

/-- REQ.EXC (R253), format `EXC`: three bytes, whatever CRC follows on the wire (R105). -/
def execReqExc (addr fc code : Byte) (s : State) : Result :=
  withLegalConfig s (deliverFrame (wireEXC addr fc code) s)

/-- REQ.ILLEGAL (R254): the frame ends on its second byte. -/
def execReqIllegal (addr fc : Byte) (s : State) : Result :=
  withLegalConfig s (deliverFrame (wireIllegal addr fc) s)

end Sys2Proof.Machine
end

