-- ==== Sys2Proof/Machine/FramesResponse.lean ====
section
/-! DEFINITION. The meanings of the Response role's frame kinds (44_frames_response.md): the bytes of the frame, fed in order, one FEED
a step. Each meaning is the first of those steps; `goOn` is the others. None adds behaviour to the engine's handlers; a block
of the other role parses the same bytes by its own tables. -/

namespace Sys2Proof.Machine

/-- RSP.01 (R230), format `BC`. -/
def execRsp01 (addr bc : Byte) (data : List Byte) (crc : Word) (s : State) : Result :=
  withLegalConfig s (deliverFrame (wireBC s.cfg.endianness addr 0x01 bc data crc) s)

/-- RSP.02 (R231), format `BC`. -/
def execRsp02 (addr bc : Byte) (data : List Byte) (crc : Word) (s : State) : Result :=
  withLegalConfig s (deliverFrame (wireBC s.cfg.endianness addr 0x02 bc data crc) s)

/-- RSP.03 (R232), format `BC`. -/
def execRsp03 (addr bc : Byte) (data : List Byte) (crc : Word) (s : State) : Result :=
  withLegalConfig s (deliverFrame (wireBC s.cfg.endianness addr 0x03 bc data crc) s)

/-- RSP.04 (R233), format `BC`. -/
def execRsp04 (addr bc : Byte) (data : List Byte) (crc : Word) (s : State) : Result :=
  withLegalConfig s (deliverFrame (wireBC s.cfg.endianness addr 0x04 bc data crc) s)

/-- RSP.05 (R234), format `AV`. -/
def execRsp05 (addr : Byte) (reg : Word) (val1 val2 : Byte) (crc : Word) (s : State) : Result :=
  withLegalConfig s (deliverFrame (wireAV s.cfg.endianness addr 0x05 reg val1 val2 crc) s)

/-- RSP.06 (R235), format `AV`. -/
def execRsp06 (addr : Byte) (reg : Word) (val1 val2 : Byte) (crc : Word) (s : State) : Result :=
  withLegalConfig s (deliverFrame (wireAV s.cfg.endianness addr 0x06 reg val1 val2 crc) s)

/-- RSP.0F (R236), format `AQ`. -/
def execRsp0F (addr : Byte) (start qty crc : Word) (s : State) : Result :=
  withLegalConfig s (deliverFrame (wireAQ s.cfg.endianness addr 0x0F start qty crc) s)

/-- RSP.10 (R237), format `AQ`. -/
def execRsp10 (addr : Byte) (start qty crc : Word) (s : State) : Result :=
  withLegalConfig s (deliverFrame (wireAQ s.cfg.endianness addr 0x10 start qty crc) s)

/-- RSP.EXC (R238), format `EXC`: three bytes, whatever CRC follows on the wire (R105). -/
def execRspExc (addr fc code : Byte) (s : State) : Result :=
  withLegalConfig s (deliverFrame (wireEXC addr fc code) s)

/-- RSP.ILLEGAL (R239): the frame ends on its second byte. -/
def execRspIllegal (addr fc : Byte) (s : State) : Result :=
  withLegalConfig s (deliverFrame (wireIllegal addr fc) s)

end Sys2Proof.Machine
end

