-- ==== Sys2Proof/Machine/HostCommands.lean ====
section
/-! DEFINITION. The meanings of the host's commands (46_host_interface.md). -/

namespace Sys2Proof.Machine

/-- NOP (R266): no step happens, no state changes. -/
def execNop (s : State) : Result := withLegalConfig s (.next s)

/-- FEED (R261). -/
def execFeed (b : Byte) (s : State) : Result := withLegalConfig s (feedByte b s)

/-- RESET (R262). -/
def execReset (s : State) : Result := withLegalConfig s (.next (resetBlock s))

/-- FEEDN (R264): not atomic. This is its first FEED; each later one is a step of its own (`goOn`), and the last of them
returns the number of bytes consumed. Of no bytes it returns 0 at once. -/
def execFeedn (bs : List Byte) (s : State) : Result := withLegalConfig s (deliver .feedn 0 bs s)

end Sys2Proof.Machine
end

