-- ==== Sys2Proof/Machine/PayloadBuffer.lean ====
section
/-! DEFINITION. The meanings of the payload buffer's operations (41_payload_buffer.md). -/

namespace Sys2Proof.Machine

/-- BUF.ALLOC (R162). -/
def execBufAlloc (size : Byte) (s : State) : Result := withLegalConfig s (.next (allocBuffer size.toNat s))

/-- BUF.FREE (R163). -/
def execBufFree (s : State) : Result := withLegalConfig s (.next (freeBuffer s))

/-- BUF.READ (R164). -/
def execBufRead (i : Nat) (s : State) : Result := withLegalConfig s (readByte i s)

/-- BUF.WRITE (R165). -/
def execBufWrite (v : Byte) (s : State) : Result := withLegalConfig s (putByte v s)

end Sys2Proof.Machine
end

