-- ==== Sys2Proof/Machine/PhaseDispatch.lean ====
section
/-! DEFINITION. The meanings of the dispatch operations (42_dispatch.md). -/

namespace Sys2Proof.Machine

/-- DISPATCH_FOR (R181): a pure function, "defined for the sixteen pairs below and for nothing else". -/
def execDispatchFor (role : Role) (fc : Byte) (s : State) : Result :=
  withLegalConfig s <|
    match phaseTable role fc with
    | some t => .next (giveBack (.table t) s)
    | none => .refused .noDispatchTable

/-- ADVANCE (R188). -/
def execAdvance (s : State) : Result := withLegalConfig s (.next (advancePhase s))

end Sys2Proof.Machine
end

