-- ==== Sys2Proof/Machine/Dispatch.lean ====
section
/-! DEFINITION. One arm per instruction; each calls its meaning. -/

namespace Sys2Proof.Machine

/-- What an instruction does to a state. -/
def exec (i : Instr) (s : State) : Host.Outcome State Fault Refusal :=
  match i with
  | .rsp01 addr bc data crc => Sys2Proof.Machine.execRsp01 addr bc data crc s
  | .rsp02 addr bc data crc => Sys2Proof.Machine.execRsp02 addr bc data crc s
  | .rsp03 addr bc data crc => Sys2Proof.Machine.execRsp03 addr bc data crc s
  | .rsp04 addr bc data crc => Sys2Proof.Machine.execRsp04 addr bc data crc s
  | .rsp05 addr reg val1 val2 crc => Sys2Proof.Machine.execRsp05 addr reg val1 val2 crc s
  | .rsp06 addr reg val1 val2 crc => Sys2Proof.Machine.execRsp06 addr reg val1 val2 crc s
  | .rsp0F addr start qty crc => Sys2Proof.Machine.execRsp0F addr start qty crc s
  | .rsp10 addr start qty crc => Sys2Proof.Machine.execRsp10 addr start qty crc s
  | .rspExc addr fc code => Sys2Proof.Machine.execRspExc addr fc code s
  | .rspIllegal addr fc => Sys2Proof.Machine.execRspIllegal addr fc s
  | .req01 addr start qty crc => Sys2Proof.Machine.execReq01 addr start qty crc s
  | .req02 addr start qty crc => Sys2Proof.Machine.execReq02 addr start qty crc s
  | .req03 addr start qty crc => Sys2Proof.Machine.execReq03 addr start qty crc s
  | .req04 addr start qty crc => Sys2Proof.Machine.execReq04 addr start qty crc s
  | .req05 addr reg val1 val2 crc => Sys2Proof.Machine.execReq05 addr reg val1 val2 crc s
  | .req06 addr reg val1 val2 crc => Sys2Proof.Machine.execReq06 addr reg val1 val2 crc s
  | .req0F addr start qty bc data crc => Sys2Proof.Machine.execReq0F addr start qty bc data crc s
  | .req10 addr start qty bc data crc => Sys2Proof.Machine.execReq10 addr start qty bc data crc s
  | .reqExc addr fc code => Sys2Proof.Machine.execReqExc addr fc code s
  | .reqIllegal addr fc => Sys2Proof.Machine.execReqIllegal addr fc s
  | .nop => Sys2Proof.Machine.execNop s
  | .feed b => Sys2Proof.Machine.execFeed b s
  | .reset => Sys2Proof.Machine.execReset s
  | .feedn bs => Sys2Proof.Machine.execFeedn bs s
  | .crcReset => Sys2Proof.Machine.execCrcReset s
  | .crcFold b => Sys2Proof.Machine.execCrcFold b s
  | .crcValue => Sys2Proof.Machine.execCrcValue s
  | .bufAlloc size => Sys2Proof.Machine.execBufAlloc size s
  | .bufFree => Sys2Proof.Machine.execBufFree s
  | .bufRead k => Sys2Proof.Machine.execBufRead k s
  | .bufWrite v => Sys2Proof.Machine.execBufWrite v s
  | .dispatchFor role fc => Sys2Proof.Machine.execDispatchFor role fc s
  | .advance => Sys2Proof.Machine.execAdvance s
  | .hSlaveAddress b => Sys2Proof.Machine.execHSlaveAddress b s
  | .hFunctionCode b => Sys2Proof.Machine.execHFunctionCode b s
  | .hAddress b => Sys2Proof.Machine.execHAddress b s
  | .hQuantity b => Sys2Proof.Machine.execHQuantity b s
  | .hByteCount b => Sys2Proof.Machine.execHByteCount b s
  | .hData b => Sys2Proof.Machine.execHData b s
  | .hModbusException b => Sys2Proof.Machine.execHModbusException b s
  | .hFirstCRC b => Sys2Proof.Machine.execHFirstCRC b s
  | .hSecondCRC b => Sys2Proof.Machine.execHSecondCRC b s

end Sys2Proof.Machine
end

