-- ==== Sys2Proof/Machine/Step.lean ====
section
/-! DEFINITION. One step: the composite in progress goes on, or the next item of the host's script is taken, decoded and
executed. -/

namespace Sys2Proof.Machine

/-- One step of the machine (R17, R260): one host command. In the middle of a composite it is the composite's next FEED;
otherwise the head of the script leaves it, is decoded under the configuration, and runs. With nothing presented no step of
the block happens (R325; log entry 5). -/
def step (s : State) : Host.Outcome State Fault Refusal :=
  match s.delivery with
  | some d => goOn d s
  | none =>
    match s.script with
    | [] => .next s
    | item :: rest =>
      match decode s.cfg item with
      | .ok i => exec i { s with script := rest }
      | .error e => .refused (.undecoded e)

/-- `s` with a table word's item placed where `step` fetches, no composite in progress (log entry 4). A frame item is read
under the role and endianness that `decodeTableWord` reads it under. -/
def State.withFetchWord (s : State) (nbits w : Nat) : State :=
  match tableItem nbits w with
  | .frame bytes =>
    { s with
      cfg := { s.cfg with role := Config.atReset.role, endianness := Config.atReset.endianness }
      script := .frame bytes :: s.script
      delivery := none }
  | item => { s with script := item :: s.script, delivery := none }

end Sys2Proof.Machine
end

