-- ==== Sys2Proof/Safety.lean ====
section
/-! DEFINITION. What a state the block can be in looks like (10_state.md R61), where a frame can begin, and how an
instruction of several steps ends. -/

namespace Sys2Proof.Machine

/-- The payload buffer is unallocated (R52, R53, R163). -/
def BufferFree (s : State) : Prop :=
  s.bufAlloc = false ∧ s.dataLen = 0 ∧ s.wptr = 0 ∧ s.rcnt = 0 ∧ s.buf = []

/-- The payload buffer is allocated and the first `k` payload bytes are in it, each at its index (R166); the size is the
byte count, or 2 on the implicit path (R26). -/
structure BufferHolds (s : State) (k : Nat) : Prop where
  allocated : s.bufAlloc = true
  size : s.dataLen = if s.byteCount = 0 then 2 else s.byteCount.toNat
  cursor : s.wptr = payloadIndex s.cfg k
  counter : s.rcnt = if s.cfg.swapRegisters then s.cfg.registerSize.toNat - k % s.cfg.registerSize.toNat else 0
  inside : ∀ j, j < k → payloadIndex s.cfg j < s.dataLen
  written : ∀ j, j < k → (memRead s.buf (payloadIndex s.cfg j)).isSome = true
  onlyThose : ∀ i, (memRead s.buf i).isSome = true → ∃ j, j < k ∧ payloadIndex s.cfg j = i

/-- The table the block walks (R57 (a)). -/
def currentTable (s : State) : Option (List ParserState) := phaseTable s.cfg.role s.functionCode

/-- The tag at `phase_idx` is `state`, so `function_code` is supported and `phase_idx` inside the table (R61 (d), (e)). -/
def AtPhase (s : State) : Prop :=
  ∃ t, currentTable s = some t ∧ t[s.phaseIdx]? = some s.state

/-- Past the last tag (R61 (e)), with the payload the table asks for (R61 (c)). -/
def PastPhases (s : State) : Prop :=
  ∃ t, currentTable s = some t ∧ s.phaseIdx = t.length ∧
    (if ParserState.data ∈ t then BufferHolds s s.dataLen else BufferFree s)

/-- Nothing of a frame but its address is recorded. -/
def FieldsFresh (s : State) : Prop :=
  s.functionCode = 0 ∧ s.address = 0 ∧ s.quantity = 0 ∧ s.byteCount = 0 ∧ s.phaseIdx = 0

/-- What each value of `state` says of the other registers. -/
def PhaseShape (s : State) : Prop :=
  match s.state with
  | .slaveAddress => s = resetBlock s
  | .functionCode => FieldsFresh s ∧ s.dataToReceive = 0 ∧ BufferFree s
  | .modbusException => FieldsFresh s ∧ s.dataToReceive = 0 ∧ BufferFree s
  | .address => AtPhase s ∧ s.byteCount = 0 ∧ s.dataToReceive = 0 ∧ BufferFree s
  | .quantity => AtPhase s ∧ s.byteCount = 0 ∧ s.dataToReceive = 0 ∧ BufferFree s
  | .byteCount => AtPhase s ∧ s.byteCount = 0 ∧ s.dataToReceive = 0 ∧ BufferFree s
  | .data => AtPhase s ∧
      ((BufferFree s ∧ s.dataToReceive = s.byteCount.toNat) ∨
        (0 < s.dataToReceive ∧ s.dataToReceive ≤ s.dataLen ∧ BufferHolds s (s.dataLen - s.dataToReceive)))
  | .firstCRC => s.dataToReceive = 0 ∧ PastPhases s
  | .secondCRC => s.dataToReceive = 0 ∧ PastPhases s
  | .complete => s.dataToReceive = 0 ∧ PastPhases s
  | .error => BufferFree s ∨ BufferHolds s s.dataLen

/-- The shape every step keeps. -/
structure ReachableShape (s : State) : Prop where
  canonical : Memory.wf s.buf = true
  withinLimit : s.byteCount.toNat ≤ s.cfg.byteCountLimit
  noStaleError : s.error ≠ 0 → s.state = .error
  shape : PhaseShape s

/-- A composite in progress has a byte to feed and has fed one, and has not entered `Error`, which would have ended it
(R264). -/
def DeliveryLive (s : State) : Prop :=
  ∀ d, s.delivery = some d → d.rest ≠ [] ∧ 0 < d.consumed ∧ s.state ≠ .error

/-- Where the next byte fed is the first of a frame (R331, R32): the reset state, or a terminal state. -/
def AtFrameStart (s : State) : Prop :=
  s = resetBlock s ∨ s.state = .complete ∨ s.state = .error

/-- A block of the given role, legally configured, that will take `addr` as the first byte of a frame (R335, R197). -/
structure TakesFrame (s : State) (role : Role) (addr : Byte) : Prop where
  legal : configLegal s.cfg = true
  role : s.cfg.role = role
  accepted : addr = s.cfg.mySlaveAddress ∨ s.cfg.mySlaveAddress = 0
  start : AtFrameStart s

/-- "Register-swap mode needs `data_len` to be a multiple of `cfg.register_size`" (R78). -/
def PayloadFits (c : Config) (n : Nat) : Prop :=
  c.swapRegisters = true → c.registerSize.toNat ∣ n

/-- The payload is exactly `data`, the k-th byte at the index R76 gives it. -/
structure HoldsPayload (t : State) (data : List Byte) : Prop where
  allocated : t.bufAlloc = true
  size : t.dataLen = data.length
  canonical : Memory.wf t.buf = true
  bytes : ∀ k (h : k < data.length), memRead t.buf (payloadIndex t.cfg k) = some data[k]
  nothingElse : ∀ i, data.length ≤ i → memRead t.buf i = none

/-- `t` is reached from `s` by one frame, as far as the frame's fields and the block's boundary go; how the frame ended
(`state`, `error`, the event) and its payload are said apart. -/
structure FrameFields (s t : State) (addr fc : Byte) (address quantity : Word) (bc : Byte) (crc : Word)
    (phases : Nat) : Prop where
  slaveAddress : t.slaveAddress = addr
  functionCode : t.functionCode = fc
  address : t.address = address
  quantity : t.quantity = quantity
  byteCount : t.byteCount = bc
  crc : t.crc = crc
  phaseIdx : t.phaseIdx = phases
  dataToReceive : t.dataToReceive = 0
  cfg : t.cfg = s.cfg
  script : t.script = s.script
  delivery : t.delivery = none
  returned : t.returned = s.returned

/-- The frame ended in `Complete`, with its one event (R301, R306). -/
def EndsComplete (s t : State) : Prop :=
  t.state = .complete ∧ t.error = 0 ∧ t.events = s.events ++ [.onComplete]

/-- The frame ended in `Error(k)`, with its one event (R300, R306). -/
def EndsInError (s t : State) (k : Byte) : Prop :=
  t.state = .error ∧ t.error = k ∧ t.events = s.events ++ [.onError]

/-- From `t`, the steps of the composite in progress are `k` more, and they lead to `u`, where it is over. With no composite
in progress there are none. -/
def FinishesIn : Nat → State → State → Prop
  | 0, t, u => t.delivery = none ∧ t = u
  | k + 1, t, u => t.delivery ≠ none ∧ ∃ v, step t = .next v ∧ FinishesIn k v u

/-- From `t`, the composite in progress ends in the fault `f` at the `k`-th step. -/
def FaultsIn : Nat → State → Fault → Prop
  | 0, _, _ => False
  | k + 1, t, f => t.delivery ≠ none ∧ (step t = .fault f ∧ k = 0 ∨ ∃ v, step t = .next v ∧ FaultsIn k v f)

/-- The instruction, begun in `s`, runs to its end and leaves `u`. -/
def Finishes (i : Instr) (s u : State) : Prop := ∃ k t, exec i s = .next t ∧ FinishesIn k t u

/-- The instruction, begun in `s`, ends in the fault `f` at its first step or a later one. -/
def Faults (i : Instr) (s : State) (f : Fault) : Prop :=
  exec i s = .fault f ∨ ∃ k t, exec i s = .next t ∧ FaultsIn k t f

/-- BUF.WRITE of one byte after another. -/
def writeAll : List Byte → State → Result
  | [], s => .next s
  | v :: vs, s => andThen (exec (.bufWrite v) s) (writeAll vs)

end Sys2Proof.Machine
end

