-- ==== Sys2Proof/Certificates/Slice0/Obligations.lean ====
section
/-! DEFINITION. The statements for the provers. Each says which rule of the spec it formalises, or which sections it is
derived from; a clause about the model's own fields (`script`, `delivery`, `events`, `returned`: log entries 5, 9, 7, 6) says
so. -/

open Sys2Proof Sys2Proof.Machine

/-! ## Reset, configuration, NOP -/

/-- Power-on gives every register the value of the reset table (10_state.md section 8; the zeros are the spec's D7, the
power-on state its D8), and `State.reset` is power-on in the configuration of log entry 1. The boundary fields start empty
(log entries 5, 6, 7, 9). -/
def Obligations.PowerOnHoldsTheResetTable : Prop :=
  State.reset = State.powerOn Config.atReset ∧
  ∀ c, (State.powerOn c).cfg = c ∧ (State.powerOn c).state = .slaveAddress ∧ (State.powerOn c).crc = 0xFFFF ∧
    (State.powerOn c).error = 0 ∧ (State.powerOn c).bufAlloc = false ∧ (State.powerOn c).dataLen = 0 ∧
    (∀ i, memRead (State.powerOn c).buf i = none) ∧
    (State.powerOn c).slaveAddress = 0 ∧ (State.powerOn c).functionCode = 0 ∧ (State.powerOn c).address = 0 ∧
    (State.powerOn c).quantity = 0 ∧ (State.powerOn c).byteCount = 0 ∧ (State.powerOn c).phaseIdx = 0 ∧
    (State.powerOn c).dataToReceive = 0 ∧ (State.powerOn c).wptr = 0 ∧ (State.powerOn c).rcnt = 0 ∧
    (State.powerOn c).script = [] ∧ (State.powerOn c).delivery = none ∧ (State.powerOn c).events = [] ∧
    (State.powerOn c).returned = .nothing

/-- RESET gives the power-on state from any state, touches no configuration and emits no event (46_host_interface.md
section 2, D7, D8); the boundary fields are as before (log entries 5, 6, 7, 9). -/
def Obligations.ResetReturnsToPowerOn : Prop :=
  ∀ s, configLegal s.cfg = true →
    exec .reset s = .next { State.powerOn s.cfg with
      script := s.script, delivery := s.delivery, events := s.events, returned := s.returned }

/-- NOP: no state changes (46_host_interface.md section 2, D2). -/
def Obligations.NopChangesNothing : Prop :=
  ∀ s, configLegal s.cfg = true → exec .nop s = .next s

/-- The legal configurations, and that no instruction has a meaning outside them (10_state.md section 6, D17). -/
def Obligations.IllegalConfigurationHasNoMeaning : Prop :=
  (∀ c, configLegal c = true ↔
    c.mySlaveAddress.toNat ≤ 247 ∧ ¬(c.swapRegisters = true ∧ c.registerSize = 0)) ∧
  ∀ i s, configLegal s.cfg = false → exec i s = .refused .illegalConfiguration

/-! ## The CRC accumulator -/

/-- CRC.RESET (R141). -/
def Obligations.CrcResetLoadsFFFF : Prop :=
  ∀ s, configLegal s.cfg = true → exec .crcReset s = .next { s with crc := 0xFFFF }

/-- CRC.FOLD (R142): the byte XORed into the low byte, then eight times shift right and, when the bit shifted out was 1,
XOR `0xA001`. Nothing else changes. -/
def Obligations.CrcFoldIsEightReflectedIterations : Prop :=
  ∀ b s, configLegal s.cfg = true →
    exec (.crcFold b) s = .next { s with
      crc := (fun c : Word => if c.getLsbD 0 then (c >>> 1) ^^^ 0xA001 else c >>> 1)^[8]
        (s.crc ^^^ b.setWidth 16) }

/-- CRC.VALUE returns the register and changes no state of the block (40_crc.md section 1); where the value is returned
is the model's own (log entry 6). -/
def Obligations.CrcValueReturnsTheAccumulator : Prop :=
  ∀ s, configLegal s.cfg = true → exec .crcValue s = .next { s with returned := .crc s.crc }

/-- Folding the low byte of the register and then its high byte gives zero (40_crc.md section 4, the residue
cross-check). -/
def Obligations.CrcOfOwnBytesIsZero : Prop :=
  ∀ s t u, configLegal s.cfg = true → exec (.crcFold (lowByte s.crc)) s = .next t →
    exec (.crcFold (highByte s.crc)) t = .next u → u.crc = 0

/-- For a fixed byte the fold is a bijection of register values; for a fixed register distinct bytes give distinct
results (40_crc.md section 4). -/
def Obligations.CrcFoldIsBijective : Prop :=
  (∀ b, Function.Bijective fun c => crcFoldByte c b) ∧ ∀ c, Function.Injective fun b => crcFoldByte c b

/-! ## The payload buffer -/

/-- BUF.ALLOC and BUF.FREE (41_payload_buffer.md section 2): an allocation has its size, no contents and the cursor at its
first index; a freed buffer is empty (D13). Nothing else changes. That BUF.ALLOC does so also of size 0, outside its operand
range, and where a buffer is allocated already, outside its precondition, is the model's choice (log entry 12). -/
def Obligations.BufAllocAndFreeSetTheBuffer : Prop :=
  (∀ size s, configLegal s.cfg = true →
    exec (.bufAlloc size) s = .next { s with
      bufAlloc := true, dataLen := size.toNat, buf := []
      wptr := if s.cfg.swapRegisters then s.cfg.registerSize.toNat - 1 else 0
      rcnt := if s.cfg.swapRegisters then s.cfg.registerSize.toNat else 0 }) ∧
  ∀ s, configLegal s.cfg = true →
    exec .bufFree s = .next { s with bufAlloc := false, dataLen := 0, wptr := 0, rcnt := 0, buf := [] }

/-- BUF.WRITE (41_payload_buffer.md section 2, D14): inside the allocation the byte is stored at the cursor, every other
index reads as before, the cursor moves as the mode says, and nothing else changes; outside it is the fault. The cursor's
value after a decrement from 0 is left open (log entry 2), so the swap clause away from a register's end asks for positive
cursors. -/
def Obligations.BufWriteStoresAtTheCursor : Prop :=
  ∀ v s, configLegal s.cfg = true →
    (s.dataLen ≤ s.wptr → exec (.bufWrite v) s = .fault .bufferOverrun) ∧
    (s.wptr < s.dataLen → ∃ t, exec (.bufWrite v) s = .next t ∧
      memRead t.buf s.wptr = some v ∧ (∀ i, i ≠ s.wptr → memRead t.buf i = memRead s.buf i) ∧
      t = { s with buf := t.buf, wptr := t.wptr, rcnt := t.rcnt } ∧
      (s.cfg.swapRegisters = false → t.wptr = s.wptr + 1 ∧ t.rcnt = s.rcnt) ∧
      (s.cfg.swapRegisters = true → s.rcnt = 1 →
        t.wptr = s.wptr + 2 * s.cfg.registerSize.toNat - 1 ∧ t.rcnt = s.cfg.registerSize.toNat) ∧
      (s.cfg.swapRegisters = true → s.rcnt ≠ 1 → 0 < s.wptr → 0 < s.rcnt →
        t.wptr + 1 = s.wptr ∧ t.rcnt + 1 = s.rcnt))

/-- BUF.READ (41_payload_buffer.md section 2, D12): a byte that has a value is returned (log entry 6 for where) and
nothing else changes; one without a value faults; beyond `data_len` there is no element. -/
def Obligations.BufReadReturnsWrittenBytes : Prop :=
  ∀ i s, configLegal s.cfg = true →
    (∀ b, i < s.dataLen → memRead s.buf i = some b →
      exec (.bufRead i) s = .next { s with returned := .byte b }) ∧
    (i < s.dataLen → memRead s.buf i = none → exec (.bufRead i) s = .fault .unwrittenRead) ∧
    (s.dataLen ≤ i → exec (.bufRead i) s = .refused .noSuchElement)

/-- The index law (41_payload_buffer.md section 3): after an allocation and k writes, byte j stands at
`N*(j div N) + (N-1 - j mod N)` in swap mode and at j in linear mode, the cursor at the index of byte k and the counter at
`N - k mod N`, and no other index has a value. The memory's canonical form is the model's own (log entry 13); BUF.ALLOC of
size 0 or over an allocation is log entry 12. -/
def Obligations.WritesFollowTheIndexLaw : Prop :=
  ∀ (s : State) (size : Byte) (vs : List Byte), configLegal s.cfg = true → vs.length ≤ size.toNat →
    PayloadFits s.cfg size.toNat →
    ∃ u t, exec (.bufAlloc size) s = .next u ∧ writeAll vs u = .next t ∧
      (∀ j (h : j < vs.length), memRead t.buf
        (if s.cfg.swapRegisters then
          s.cfg.registerSize.toNat * (j / s.cfg.registerSize.toNat)
            + (s.cfg.registerSize.toNat - 1 - j % s.cfg.registerSize.toNat)
        else j) = some vs[j]) ∧
      (∀ i, (∀ j, j < vs.length → payloadIndex s.cfg j ≠ i) → memRead t.buf i = none) ∧
      t.wptr = payloadIndex s.cfg vs.length ∧
      t.rcnt = (if s.cfg.swapRegisters then
        s.cfg.registerSize.toNat - vs.length % s.cfg.registerSize.toNat else 0) ∧
      t.dataLen = size.toNat ∧ Memory.wf t.buf = true

/-- In swap mode with a size that is no multiple of `register_size` the whole registers are written and the first byte of
the incomplete one overruns (41_payload_buffer.md section 2, D14); BUF.ALLOC over an allocation is log entry 12. -/
def Obligations.SwapOverrunsAtTheIncompleteRegister : Prop :=
  ∀ (s : State) (size : Byte) (vs : List Byte), configLegal s.cfg = true → s.cfg.swapRegisters = true →
    ¬s.cfg.registerSize.toNat ∣ size.toNat →
    vs.length = s.cfg.registerSize.toNat * (size.toNat / s.cfg.registerSize.toNat) →
    ∃ u t, exec (.bufAlloc size) s = .next u ∧ writeAll vs u = .next t ∧
      ∀ v, exec (.bufWrite v) t = .fault .bufferOverrun

/-! ## Dispatch -/

/-- DISPATCH_FOR (42_dispatch.md sections 1 and 2) selects the six tables and changes nothing; where the table is returned is the
model's own (log entry 6). It is defined for no other code; that the model answers one by the refusal `noDispatchTable` is
its choice (log entry 3). -/
def Obligations.DispatchForSelectsTheSixTables : Prop :=
  ∀ s, configLegal s.cfg = true →
    (∀ fc ∈ ([0x01, 0x02, 0x03, 0x04] : List Byte), exec (.dispatchFor .response fc) s =
      .next { s with returned := .table [.byteCount, .data] }) ∧
    (∀ role, ∀ fc ∈ ([0x05, 0x06] : List Byte), exec (.dispatchFor role fc) s =
      .next { s with returned := .table [.address, .address, .data] }) ∧
    (∀ fc ∈ ([0x0F, 0x10] : List Byte), exec (.dispatchFor .response fc) s =
      .next { s with returned := .table [.address, .address, .quantity, .quantity] }) ∧
    (∀ fc ∈ ([0x01, 0x02, 0x03, 0x04] : List Byte), exec (.dispatchFor .request fc) s =
      .next { s with returned := .table [.address, .address, .quantity, .quantity] }) ∧
    (∀ fc ∈ ([0x0F, 0x10] : List Byte), exec (.dispatchFor .request fc) s =
      .next { s with returned := .table [.address, .address, .quantity, .quantity, .byteCount, .data] }) ∧
    (∀ role fc, fc ∉ ([0x01, 0x02, 0x03, 0x04, 0x05, 0x06, 0x0F, 0x10] : List Byte) →
      exec (.dispatchFor role fc) s = .refused .noDispatchTable)

/-- ADVANCE (42_dispatch.md section 3): `phase_idx` grows by one; `state` becomes `FirstCRC` at the table's length and the
tag below it; it raises nothing and changes nothing else. That it goes on also without a table or a tag at the new index,
with `state` left open, is the model's choice (log entry 3). -/
def Obligations.AdvanceStepsThroughTheTable : Prop :=
  ∀ s, configLegal s.cfg = true →
    (∃ st, exec .advance s = .next { s with phaseIdx := s.phaseIdx + 1, state := st }) ∧
    ∀ tags, phaseTable s.cfg.role s.functionCode = some tags →
      (s.phaseIdx + 1 = tags.length →
        exec .advance s = .next { s with phaseIdx := s.phaseIdx + 1, state := .firstCRC }) ∧
      ∀ h : s.phaseIdx + 1 < tags.length,
        exec .advance s = .next { s with phaseIdx := s.phaseIdx + 1, state := tags[s.phaseIdx + 1] }

/-! ## The engine's handlers -/

/-- H.SlaveAddress (43_engine.md section 2): an accepted byte is recorded and folded; a noise byte changes nothing
(D21). -/
def Obligations.SlaveAddressRecordsOrIgnores : Prop :=
  ∀ b s, configLegal s.cfg = true →
    ((b = s.cfg.mySlaveAddress ∨ s.cfg.mySlaveAddress = 0) →
      exec (.hSlaveAddress b) s =
        .next { s with slaveAddress := b, crc := crcFoldByte s.crc b, state := .functionCode }) ∧
    (¬(b = s.cfg.mySlaveAddress ∨ s.cfg.mySlaveAddress = 0) → exec (.hSlaveAddress b) s = .next s)

/-- H.FunctionCode (43_engine.md section 2, D6, D9): bit 7 first, then the eight codes, then the error. -/
def Obligations.FunctionCodeClassifies : Prop :=
  ∀ b s, configLegal s.cfg = true →
    (0x80 ≤ b.toNat → exec (.hFunctionCode b) s = .next { s with state := .modbusException }) ∧
    (b ∈ ([0x01, 0x02, 0x03, 0x04, 0x05, 0x06, 0x0F, 0x10] : List Byte) →
      exec (.hFunctionCode b) s = .next { s with
        functionCode := b, phaseIdx := 0, crc := crcFoldByte s.crc b
        state := if s.cfg.role = .response ∧ b ∈ ([0x01, 0x02, 0x03, 0x04] : List Byte)
          then .byteCount else .address }) ∧
    (b.toNat < 0x80 → b ∉ ([0x01, 0x02, 0x03, 0x04, 0x05, 0x06, 0x0F, 0x10] : List Byte) →
      exec (.hFunctionCode b) s =
        .next { s with error := 1, state := .error, events := s.events ++ [.onError] })

/-- H.Address (43_engine.md section 2, D30): under a table whose tag at `phase_idx` is `Address`, the byte goes to its
half, is folded, and the phase advances; nothing else changes. -/
def Obligations.AddressWritesItsHalf : Prop :=
  ∀ b s tags, configLegal s.cfg = true → phaseTable s.cfg.role s.functionCode = some tags →
    tags[s.phaseIdx]? = some .address →
    exec (.hAddress b) s = .next { s with
      address :=
        if (s.phaseIdx = 0 ↔ s.cfg.endianness = .big)
        then joinBytes b (lowByte s.address) else joinBytes (highByte s.address) b
      crc := crcFoldByte s.crc b
      phaseIdx := s.phaseIdx + 1
      state := (tags[s.phaseIdx + 1]?).getD .firstCRC }

/-- H.Quantity (43_engine.md section 2, D11, D30): the byte goes to its half and is folded; then a zero quantity after the
second byte is `IllegalDataValue`, and otherwise the phase advances. -/
def Obligations.QuantityRejectsZero : Prop :=
  ∀ b s tags q, configLegal s.cfg = true → phaseTable s.cfg.role s.functionCode = some tags →
    tags[s.phaseIdx]? = some .quantity →
    q = (if (s.phaseIdx = 2 ↔ s.cfg.endianness = .big)
      then joinBytes b (lowByte s.quantity) else joinBytes (highByte s.quantity) b) →
    (s.phaseIdx = 3 → q = 0 →
      exec (.hQuantity b) s = .next { s with
        quantity := q, crc := crcFoldByte s.crc b, error := 3, state := .error
        events := s.events ++ [.onError] }) ∧
    (¬(s.phaseIdx = 3 ∧ q = 0) →
      exec (.hQuantity b) s = .next { s with
        quantity := q, crc := crcFoldByte s.crc b, phaseIdx := s.phaseIdx + 1
        state := (tags[s.phaseIdx + 1]?).getD .firstCRC })

/-- H.ByteCount (R201): zero and a count over the limit are `IllegalDataValue`, with the byte neither recorded nor folded
and the buffer not allocated; any other count is recorded, becomes `data_to_receive`, is folded, and `Data` follows. -/
def Obligations.ByteCountAcceptsWithinTheLimit : Prop :=
  ∀ b s, configLegal s.cfg = true →
    (b = 0 ∨ s.cfg.byteCountLimit < b.toNat →
      exec (.hByteCount b) s =
        .next { s with error := 3, state := .error, events := s.events ++ [.onError] }) ∧
    (∀ tags, b ≠ 0 → b.toNat ≤ s.cfg.byteCountLimit →
      phaseTable s.cfg.role s.functionCode = some tags → tags[s.phaseIdx]? = some .byteCount →
      exec (.hByteCount b) s = .next { s with
        byteCount := b, dataToReceive := b.toNat, crc := crcFoldByte s.crc b
        phaseIdx := s.phaseIdx + 1, state := .data })

/-- H.Data (43_engine.md section 2): on the first byte the buffer is allocated, with 2 bytes on the implicit path; the byte
is stored at the cursor, the cursor moves as BUF.WRITE moves it, and the byte is folded; `data_to_receive` counts down and
at 0 the phase advances past `Data`. Outside the allocation it is the fault (D14). Every other index, register and boundary
field is as before. The two premises on positive counters leave out the decrements of log entry 2. -/
def Obligations.DataStoresFoldsAndCounts : Prop :=
  ∀ b s tags n len w rc, configLegal s.cfg = true → phaseTable s.cfg.role s.functionCode = some tags →
    s.phaseIdx + 1 = tags.length → (s.bufAlloc = true → 0 < s.dataToReceive) →
    n = (if s.bufAlloc = false ∧ s.dataToReceive = 0 then 2 else s.dataToReceive) →
    len = (if s.bufAlloc then s.dataLen else n) →
    w = (if s.bufAlloc then s.wptr
      else if s.cfg.swapRegisters then s.cfg.registerSize.toNat - 1 else 0) →
    rc = (if s.bufAlloc then s.rcnt else if s.cfg.swapRegisters then s.cfg.registerSize.toNat else 0) →
    (len ≤ w → exec (.hData b) s = .fault .bufferOverrun) ∧
    (w < len → ∃ t, exec (.hData b) s = .next t ∧
      t.bufAlloc = true ∧ t.dataLen = len ∧ memRead t.buf w = some b ∧
      (∀ i, i ≠ w → memRead t.buf i = if s.bufAlloc then memRead s.buf i else none) ∧
      (s.cfg.swapRegisters = false → t.wptr = w + 1 ∧ t.rcnt = rc) ∧
      (s.cfg.swapRegisters = true → rc = 1 →
        t.wptr = w + 2 * s.cfg.registerSize.toNat - 1 ∧ t.rcnt = s.cfg.registerSize.toNat) ∧
      (s.cfg.swapRegisters = true → rc ≠ 1 → 0 < w → 0 < rc → t.wptr + 1 = w ∧ t.rcnt + 1 = rc) ∧
      t.crc = crcFoldByte s.crc b ∧ t.dataToReceive + 1 = n ∧
      (n = 1 → t.state = .firstCRC ∧ t.phaseIdx = s.phaseIdx + 1) ∧
      (n ≠ 1 → t.state = s.state ∧ t.phaseIdx = s.phaseIdx) ∧
      t.cfg = s.cfg ∧ t.slaveAddress = s.slaveAddress ∧ t.functionCode = s.functionCode ∧
      t.address = s.address ∧ t.quantity = s.quantity ∧ t.byteCount = s.byteCount ∧ t.error = s.error ∧
      t.script = s.script ∧ t.delivery = s.delivery ∧ t.events = s.events ∧ t.returned = s.returned)

/-- H.ModbusException (43_engine.md section 2, D4, D10): always an error, whose kind is the byte, unfolded. -/
def Obligations.ModbusExceptionRaisesItsByte : Prop :=
  ∀ b s, configLegal s.cfg = true →
    exec (.hModbusException b) s =
      .next { s with error := b, state := .error, events := s.events ++ [.onError] }

/-- H.FirstCRC (R204): the byte is compared with the low byte of `crc` under `Big`, the high byte under `Little`; it is
not folded in either arm. -/
def Obligations.FirstCrcCompares : Prop :=
  ∀ b s, configLegal s.cfg = true →
    (b = (if s.cfg.endianness = .big then lowByte s.crc else highByte s.crc) →
      exec (.hFirstCRC b) s = .next { s with state := .secondCRC }) ∧
    (b ≠ (if s.cfg.endianness = .big then lowByte s.crc else highByte s.crc) →
      exec (.hFirstCRC b) s =
        .next { s with error := 21, state := .error, events := s.events ++ [.onError] })

/-- H.SecondCRC (43_engine.md section 2, D27): the CRC test first, then `data_to_receive`, then `Complete` with its
event. -/
def Obligations.SecondCrcComparesAndCompletes : Prop :=
  ∀ b s, configLegal s.cfg = true →
    (b ≠ (if s.cfg.endianness = .big then highByte s.crc else lowByte s.crc) →
      exec (.hSecondCRC b) s =
        .next { s with error := 21, state := .error, events := s.events ++ [.onError] }) ∧
    (b = (if s.cfg.endianness = .big then highByte s.crc else lowByte s.crc) →
      (s.dataToReceive ≠ 0 → exec (.hSecondCRC b) s =
        .next { s with error := 3, state := .error, events := s.events ++ [.onError] }) ∧
      (s.dataToReceive = 0 → exec (.hSecondCRC b) s =
        .next { s with state := .complete, events := s.events ++ [.onComplete] }))

/-! ## FEED and FEEDN -/

/-- FEED runs the one handler `state` names, after the implicit reset when `state` is terminal (43_engine.md section 1).
With the handlers' own statements this gives every FEED's result. -/
def Obligations.FeedRunsTheHandlerOfState : Prop :=
  ∀ b s,
    (s.state = .slaveAddress → exec (.feed b) s = exec (.hSlaveAddress b) s) ∧
    (s.state = .functionCode → exec (.feed b) s = exec (.hFunctionCode b) s) ∧
    (s.state = .address → exec (.feed b) s = exec (.hAddress b) s) ∧
    (s.state = .quantity → exec (.feed b) s = exec (.hQuantity b) s) ∧
    (s.state = .byteCount → exec (.feed b) s = exec (.hByteCount b) s) ∧
    (s.state = .data → exec (.feed b) s = exec (.hData b) s) ∧
    (s.state = .modbusException → exec (.feed b) s = exec (.hModbusException b) s) ∧
    (s.state = .firstCRC → exec (.feed b) s = exec (.hFirstCRC b) s) ∧
    (s.state = .secondCRC → exec (.feed b) s = exec (.hSecondCRC b) s) ∧
    (s.state = .complete ∨ s.state = .error → exec (.feed b) s =
      exec (.hSlaveAddress b) { State.powerOn s.cfg with
        script := s.script, delivery := s.delivery, events := s.events, returned := s.returned })

/-- FEED is total (43_engine.md section 3): for every register contents it overruns exactly when a payload byte falls
outside the allocation, and otherwise answers a next state with at most one event more. -/
def Obligations.FeedAnswersNextOrOverrun : Prop :=
  ∀ b s, configLegal s.cfg = true →
    ((s.state = .data ∧
        (if s.bufAlloc then s.dataLen ≤ s.wptr
          else s.cfg.swapRegisters = true ∧
            (if s.dataToReceive = 0 then 2 else s.dataToReceive) < s.cfg.registerSize.toNat)) →
      exec (.feed b) s = .fault .bufferOverrun) ∧
    (¬(s.state = .data ∧
        (if s.bufAlloc then s.dataLen ≤ s.wptr
          else s.cfg.swapRegisters = true ∧
            (if s.dataToReceive = 0 then 2 else s.dataToReceive) < s.cfg.registerSize.toNat)) →
      ∃ t, exec (.feed b) s = .next t ∧
        (t.events = s.events ∨ t.events = s.events ++ [.onComplete] ∨ t.events = s.events ++ [.onError]))

/-- FEED emits `on_complete` exactly when it enters `Complete` and `on_error` exactly when it enters `Error`
(60_exceptions.md section 3), in every state of the reachable shape. -/
def Obligations.FeedEmitsOnlyOnTerminalEntry : Prop :=
  ∀ b s t, ReachableShape s → exec (.feed b) s = .next t →
    (t.state = .complete → t.events = s.events ++ [.onComplete]) ∧
    (t.state = .error → t.events = s.events ++ [.onError]) ∧
    (t.state ≠ .complete → t.state ≠ .error → t.events = s.events)

/-- Completion entry (R301): `state` becomes `Complete` with its event and nothing else changes, only in the `SecondCRC`
handler, by a byte that equals the second CRC byte; `error` stays `None`. -/
def Obligations.CompleteOnlyByMatchingCrc : Prop :=
  ∀ b s t, ReachableShape s → exec (.feed b) s = .next t → t.state = .complete →
    s.state = .secondCRC ∧ b = crcSecond s.cfg.endianness s.crc ∧ s.dataToReceive = 0 ∧
      t.error = 0 ∧ t = { s with state := .complete, events := s.events ++ [.onComplete] }

/-- What an error records, by the state it was raised in (60_exceptions.md section 1). -/
def Obligations.ErrorRecordsByCause : Prop :=
  ∀ b s t, ReachableShape s → exec (.feed b) s = .next t → t.state = .error →
    (s.state = .functionCode ∧ t.error = 1 ∧ t.functionCode = 0 ∧ t.crc = s.crc ∧ t.bufAlloc = false) ∨
    (s.state = .quantity ∧ t.error = 3 ∧ t.quantity = 0 ∧ t.functionCode = s.functionCode ∧
      t.crc = crcFoldByte s.crc b ∧ t.bufAlloc = false) ∨
    (s.state = .byteCount ∧ t.error = 3 ∧ t.byteCount = 0 ∧ t.functionCode = s.functionCode ∧
      t.crc = s.crc ∧ t.bufAlloc = false) ∨
    ((s.state = .firstCRC ∨ s.state = .secondCRC) ∧ t.error = 21 ∧ t.functionCode = s.functionCode ∧
      t.crc = s.crc ∧ t.dataLen = s.dataLen ∧ t.buf = s.buf) ∨
    (s.state = .modbusException ∧ t.error = b ∧ t.functionCode = 0 ∧ t.crc = s.crc ∧ t.bufAlloc = false)

/-- Taking the block's exception (R300): from the register contents `u` the arm is reached with, only `error`, `state` and
the event output change; nothing is saved. `u` is the state before the byte, except that the `Quantity` handler has written
its half and folded the byte before it raises. -/
def Obligations.ErrorEntryChangesNothingElse : Prop :=
  ∀ b s t, ReachableShape s → exec (.feed b) s = .next t → t.state = .error →
    ∃ u, (u = s ∨ s.state = .quantity ∧ u = { s with
        quantity := writeHalf s.cfg.endianness (isFirstByte s.phaseIdx) s.quantity b
        crc := crcFoldByte s.crc b }) ∧
      t = { u with error := t.error, state := .error, events := s.events ++ [.onError] }

/-- The payload buffer is written by the `Data` handler alone: a FEED in any other non-terminal state leaves its five
registers and every byte as they were (20_memory.md section 1). -/
def Obligations.OnlyDataWritesThePayload : Prop :=
  ∀ b s t, exec (.feed b) s = .next t → s.state ≠ .data → s.state ≠ .complete → s.state ≠ .error →
    t.bufAlloc = s.bufAlloc ∧ t.dataLen = s.dataLen ∧ t.wptr = s.wptr ∧ t.rcnt = s.rcnt ∧
      ∀ i, memRead t.buf i = memRead s.buf i

/-- FEEDN in linear mode completes from every state of the reachable shape, one FEED a step (log entry 9); its last step
returns how many bytes it consumed (log entry 6), and it consumed fewer than it was given only when it ended in `Error`
(46_host_interface.md section 2). -/
def Obligations.FeednCompletesInLinearMode : Prop :=
  ∀ bs s, configLegal s.cfg = true → s.cfg.swapRegisters = false → ReachableShape s →
    ∃ t k u n, exec (.feedn bs) s = .next t ∧ FinishesIn k t u ∧ u.returned = .count n ∧ n ≤ bs.length ∧
      (n < bs.length → u.state = .error) ∧ (bs ≠ [] → n = k + 1) ∧
      (bs = [] → k = 0 ∧ t = { s with delivery := none, returned := .count 0 })

/-- Feeding in one chunk or in two gives the same state and the counts add up, or the same fault, when the first chunk does
not end in `Error` (46_host_interface.md section 2, the chunking law; log entries 6 and 9). -/
def Obligations.ChunkingIsAssociative : Prop :=
  ∀ bs cs s u n, Finishes (.feedn bs) s u → u.returned = .count n → u.state ≠ .error →
    n = bs.length ∧
    (∀ v m, Finishes (.feedn cs) u v → v.returned = .count m →
      Finishes (.feedn (bs ++ cs)) s { v with returned := .count (n + m) }) ∧
    ∀ f, Faults (.feedn cs) u f → Faults (.feedn (bs ++ cs)) s f

/-- FEEDN is the sequence of FEED commands it expands to (30_encoding.md section 7), step by step: as long as the FEEDs have
not entered `Error`, after `j` steps of either the block, its events and its fault are the same, and FEEDN, if that was its
last byte or left `Error`, is over and has returned `j`. The script (log entry 5), the latch (log entry 6) and the composite
in progress (log entry 9) are the model's own. -/
def Obligations.FeednIsTheSteppedFeeds : Prop :=
  ∀ bs rest s j, s.delivery = none → s.script = bs.map (FetchItem.port 1) ++ rest → 0 < j → j ≤ bs.length →
    (∀ i w, 0 < i → i < j → Host.Core.run Sys2Proof.core i s = .next w → w.state ≠ .error) →
    (∀ f, Host.Core.run Sys2Proof.core j s = .fault f →
      Host.Core.run Sys2Proof.core j { s with script := .bulk bs :: rest } = .fault f) ∧
    ∀ v, Host.Core.run Sys2Proof.core j s = .next v →
      Host.Core.run Sys2Proof.core j { s with script := .bulk bs :: rest } = .next { v with
        script := rest
        delivery := if v.state = .error ∨ j = bs.length then none
          else some { kind := .feedn, rest := bs.drop j, consumed := j }
        returned := if v.state = .error ∨ j = bs.length then .count j else v.returned }

/-! ## Frame kinds

A frame kind runs one FEED a step and ends with its first error (log entry 8), so each statement gives the number of steps
after the first and the state they lead to. `HoldsPayload` also says that the memory is canonical (log entry 13). -/

/-- A `BC` frame kind (44_frames_response.md section 1): the whole frame, accepted, ends in `Complete` with its fields,
its payload and its event, on its last byte. -/
def Sys2Proof.Machine.CompletesBC (role : Role) (fc : Byte) (mk : Byte → Byte → List Byte → Word → Instr) : Prop :=
  ∀ s addr bc data, TakesFrame s role addr → data.length = bc.toNat → bc ≠ 0 →
    bc.toNat ≤ s.cfg.byteCountLimit → PayloadFits s.cfg bc.toNat →
    ∃ t u, exec (mk addr bc data (crcOfBytes (addr :: fc :: bc :: data))) s = .next t ∧
      FinishesIn (bc.toNat + 4) t u ∧ EndsComplete s u ∧ HoldsPayload u data ∧
      FrameFields s u addr fc 0 0 bc (crcOfBytes (addr :: fc :: bc :: data)) 2

/-- An `AV` frame kind (44_frames_response.md section 2): the two value bytes are the payload. -/
def Sys2Proof.Machine.CompletesAV (role : Role) (fc : Byte) (mk : Byte → Word → Byte → Byte → Word → Instr) : Prop :=
  ∀ s addr reg val1 val2 crc, TakesFrame s role addr → PayloadFits s.cfg 2 →
    crc = crcOfBytes [addr, fc, fieldFirst s.cfg.endianness reg, fieldSecond s.cfg.endianness reg, val1, val2] →
    ∃ t u, exec (mk addr reg val1 val2 crc) s = .next t ∧ FinishesIn 7 t u ∧
      EndsComplete s u ∧ HoldsPayload u [val1, val2] ∧ FrameFields s u addr fc reg 0 0 crc 3

/-- An `AQ` frame kind (44_frames_response.md section 3): a quantity other than zero, and no buffer. -/
def Sys2Proof.Machine.CompletesAQ (role : Role) (fc : Byte) (mk : Byte → Word → Word → Word → Instr) : Prop :=
  ∀ s addr start qty crc, TakesFrame s role addr → qty ≠ 0 →
    crc = crcOfBytes [addr, fc, fieldFirst s.cfg.endianness start, fieldSecond s.cfg.endianness start,
      fieldFirst s.cfg.endianness qty, fieldSecond s.cfg.endianness qty] →
    ∃ t u, exec (mk addr start qty crc) s = .next t ∧ FinishesIn 7 t u ∧
      EndsComplete s u ∧ BufferFree u ∧ FrameFields s u addr fc start qty 0 crc 4

/-- An `AQBD` frame kind (45_frames_request.md section 3). -/
def Sys2Proof.Machine.CompletesAQBD (role : Role) (fc : Byte)
    (mk : Byte → Word → Word → Byte → List Byte → Word → Instr) : Prop :=
  ∀ s addr start qty bc data crc, TakesFrame s role addr → qty ≠ 0 → data.length = bc.toNat → bc ≠ 0 →
    bc.toNat ≤ s.cfg.byteCountLimit → PayloadFits s.cfg bc.toNat →
    crc = crcOfBytes (addr :: fc :: fieldFirst s.cfg.endianness start :: fieldSecond s.cfg.endianness start ::
      fieldFirst s.cfg.endianness qty :: fieldSecond s.cfg.endianness qty :: bc :: data) →
    ∃ t u, exec (mk addr start qty bc data crc) s = .next t ∧ FinishesIn (bc.toNat + 8) t u ∧
      EndsComplete s u ∧ HoldsPayload u data ∧ FrameFields s u addr fc start qty bc crc 6

/-- RSP.01 to RSP.04: parsing what was sent gives back what was sent. -/
def Obligations.ByteCountFramesComplete : Prop :=
  CompletesBC .response 0x01 .rsp01 ∧ CompletesBC .response 0x02 .rsp02 ∧
  CompletesBC .response 0x03 .rsp03 ∧ CompletesBC .response 0x04 .rsp04

/-- RSP.05, RSP.06, REQ.05, REQ.06. -/
def Obligations.AddressValueFramesComplete : Prop :=
  CompletesAV .response 0x05 .rsp05 ∧ CompletesAV .response 0x06 .rsp06 ∧
  CompletesAV .request 0x05 .req05 ∧ CompletesAV .request 0x06 .req06

/-- RSP.0F, RSP.10, REQ.01 to REQ.04. -/
def Obligations.AddressQuantityFramesComplete : Prop :=
  CompletesAQ .response 0x0F .rsp0F ∧ CompletesAQ .response 0x10 .rsp10 ∧
  CompletesAQ .request 0x01 .req01 ∧ CompletesAQ .request 0x02 .req02 ∧
  CompletesAQ .request 0x03 .req03 ∧ CompletesAQ .request 0x04 .req04

/-- REQ.0F, REQ.10. -/
def Obligations.WriteMultipleFramesComplete : Prop :=
  CompletesAQBD .request 0x0F .req0F ∧ CompletesAQBD .request 0x10 .req10

/-- RSP.EXC and REQ.EXC (44_frames_response.md section 4): three bytes, always `Error(code)`, everything but the address
and its fold at reset. The frame ends there: the two CRC bytes on the wire are no part of the instruction (log entry 8). -/
def Obligations.ExceptionFramesEndInTheirCode : Prop :=
  ∀ s addr fc code, fc.msb = true →
    (TakesFrame s .response addr → ∃ t u, exec (.rspExc addr fc code) s = .next t ∧
      FinishesIn 2 t u ∧ EndsInError s u code ∧ BufferFree u ∧ FrameFields s u addr 0 0 0 0 (crcOfBytes [addr]) 0) ∧
    (TakesFrame s .request addr → ∃ t u, exec (.reqExc addr fc code) s = .next t ∧
      FinishesIn 2 t u ∧ EndsInError s u code ∧ BufferFree u ∧ FrameFields s u addr 0 0 0 0 (crcOfBytes [addr]) 0)

/-- RSP.ILLEGAL and REQ.ILLEGAL (44_frames_response.md section 4): `Error(IllegalFunction)` on the second byte. -/
def Obligations.IllegalFramesEndInIllegalFunction : Prop :=
  ∀ s addr fc, fc.msb = false → supportedCodes.contains fc = false →
    (TakesFrame s .response addr → ∃ t u, exec (.rspIllegal addr fc) s = .next t ∧
      FinishesIn 1 t u ∧ EndsInError s u 1 ∧ BufferFree u ∧ FrameFields s u addr 0 0 0 0 (crcOfBytes [addr]) 0) ∧
    (TakesFrame s .request addr → ∃ t u, exec (.reqIllegal addr fc) s = .next t ∧
      FinishesIn 1 t u ∧ EndsInError s u 1 ∧ BufferFree u ∧ FrameFields s u addr 0 0 0 0 (crcOfBytes [addr]) 0)

/-- Structural errors end a frame whatever its further bytes are (44_frames_response.md, 45_frames_request.md,
60_exceptions.md section 4): a zero quantity in formats `AQ` and `AQBD`, a byte count of zero or over the limit in formats
`BC` and `AQBD`. That the further bytes of the instruction are then not fed is the model's choice (log entry 8). -/
def Obligations.StructuralErrorsEndTheFrame : Prop :=
  (∀ s addr start crc, TakesFrame s .response addr → ∀ i ∈ [Instr.rsp0F addr start 0 crc, .rsp10 addr start 0 crc],
    ∃ t u, exec i s = .next t ∧ FinishesIn 5 t u ∧ EndsInError s u 3 ∧ BufferFree u ∧ u.address = start ∧
      u.quantity = 0) ∧
  (∀ s addr start bc data crc, TakesFrame s .request addr →
    ∀ i ∈ [Instr.req01 addr start 0 crc, .req02 addr start 0 crc, .req03 addr start 0 crc, .req04 addr start 0 crc,
        .req0F addr start 0 bc data crc, .req10 addr start 0 bc data crc],
      ∃ t u, exec i s = .next t ∧ FinishesIn 5 t u ∧ EndsInError s u 3 ∧ BufferFree u ∧ u.address = start ∧
        u.quantity = 0) ∧
  (∀ s addr bc data crc, TakesFrame s .response addr → bc = 0 ∨ s.cfg.byteCountLimit < bc.toNat →
    ∀ i ∈ [Instr.rsp01 addr bc data crc, .rsp02 addr bc data crc, .rsp03 addr bc data crc, .rsp04 addr bc data crc],
      ∃ t u, exec i s = .next t ∧ FinishesIn 2 t u ∧ EndsInError s u 3 ∧ BufferFree u ∧ u.byteCount = 0) ∧
  (∀ s addr start qty bc data crc, TakesFrame s .request addr → qty ≠ 0 →
    bc = 0 ∨ s.cfg.byteCountLimit < bc.toNat →
    ∀ i ∈ [Instr.req0F addr start qty bc data crc, .req10 addr start qty bc data crc],
      ∃ t u, exec i s = .next t ∧ FinishesIn 6 t u ∧ EndsInError s u 3 ∧ BufferFree u ∧ u.quantity = qty ∧
        u.byteCount = 0)

/-- How many CRC bytes are fed of a frame with the CRC `received` where the block computed `computed`: the first wrong one
is the last. -/
def Sys2Proof.Machine.crcBytesFed (e : Endianness) (received computed : Word) : Nat :=
  if crcFirst e received = crcFirst e computed then 2 else 1

/-- A `BC` frame kind with a wrong CRC: `Error(CRCError)`, the fields and the payload as in a good frame. -/
def Sys2Proof.Machine.FailsCrcBC (role : Role) (fc : Byte) (mk : Byte → Byte → List Byte → Word → Instr) : Prop :=
  ∀ s addr bc data crc good, TakesFrame s role addr → data.length = bc.toNat → bc ≠ 0 →
    bc.toNat ≤ s.cfg.byteCountLimit → PayloadFits s.cfg bc.toNat → good = crcOfBytes (addr :: fc :: bc :: data) →
    crc ≠ good →
    ∃ t u, exec (mk addr bc data crc) s = .next t ∧
      FinishesIn (bc.toNat + 2 + crcBytesFed s.cfg.endianness crc good) t u ∧
      EndsInError s u 21 ∧ HoldsPayload u data ∧ FrameFields s u addr fc 0 0 bc good 2

/-- An `AV` frame kind with a wrong CRC. -/
def Sys2Proof.Machine.FailsCrcAV (role : Role) (fc : Byte) (mk : Byte → Word → Byte → Byte → Word → Instr) : Prop :=
  ∀ s addr reg val1 val2 crc good, TakesFrame s role addr → PayloadFits s.cfg 2 →
    good = crcOfBytes [addr, fc, fieldFirst s.cfg.endianness reg, fieldSecond s.cfg.endianness reg, val1, val2] →
    crc ≠ good →
    ∃ t u, exec (mk addr reg val1 val2 crc) s = .next t ∧
      FinishesIn (5 + crcBytesFed s.cfg.endianness crc good) t u ∧
      EndsInError s u 21 ∧ HoldsPayload u [val1, val2] ∧ FrameFields s u addr fc reg 0 0 good 3

/-- An `AQ` frame kind with a wrong CRC. -/
def Sys2Proof.Machine.FailsCrcAQ (role : Role) (fc : Byte) (mk : Byte → Word → Word → Word → Instr) : Prop :=
  ∀ s addr start qty crc good, TakesFrame s role addr → qty ≠ 0 →
    good = crcOfBytes [addr, fc, fieldFirst s.cfg.endianness start, fieldSecond s.cfg.endianness start,
      fieldFirst s.cfg.endianness qty, fieldSecond s.cfg.endianness qty] →
    crc ≠ good →
    ∃ t u, exec (mk addr start qty crc) s = .next t ∧
      FinishesIn (5 + crcBytesFed s.cfg.endianness crc good) t u ∧
      EndsInError s u 21 ∧ BufferFree u ∧ FrameFields s u addr fc start qty 0 good 4

/-- An `AQBD` frame kind with a wrong CRC. -/
def Sys2Proof.Machine.FailsCrcAQBD (role : Role) (fc : Byte)
    (mk : Byte → Word → Word → Byte → List Byte → Word → Instr) : Prop :=
  ∀ s addr start qty bc data crc good, TakesFrame s role addr → qty ≠ 0 → data.length = bc.toNat → bc ≠ 0 →
    bc.toNat ≤ s.cfg.byteCountLimit → PayloadFits s.cfg bc.toNat →
    good = crcOfBytes (addr :: fc :: fieldFirst s.cfg.endianness start :: fieldSecond s.cfg.endianness start ::
      fieldFirst s.cfg.endianness qty :: fieldSecond s.cfg.endianness qty :: bc :: data) →
    crc ≠ good →
    ∃ t u, exec (mk addr start qty bc data crc) s = .next t ∧
      FinishesIn (bc.toNat + 6 + crcBytesFed s.cfg.endianness crc good) t u ∧
      EndsInError s u 21 ∧ HoldsPayload u data ∧ FrameFields s u addr fc start qty bc good 6

/-- A frame of any of the sixteen complete kinds that is accepted but whose received CRC is not the CRC of its body ends in
`Error(CRCError)` with the computed CRC in `crc` and the fields and payload as parsed (60_exceptions.md section 1), on its
first wrong CRC byte. That a second CRC byte after a wrong first one is then not fed is the model's choice (log entry 8). -/
def Obligations.WrongCrcEndsInCrcError : Prop :=
  (FailsCrcBC .response 0x01 .rsp01 ∧ FailsCrcBC .response 0x02 .rsp02 ∧
    FailsCrcBC .response 0x03 .rsp03 ∧ FailsCrcBC .response 0x04 .rsp04) ∧
  (FailsCrcAV .response 0x05 .rsp05 ∧ FailsCrcAV .response 0x06 .rsp06 ∧
    FailsCrcAV .request 0x05 .req05 ∧ FailsCrcAV .request 0x06 .req06) ∧
  (FailsCrcAQ .response 0x0F .rsp0F ∧ FailsCrcAQ .response 0x10 .rsp10 ∧
    FailsCrcAQ .request 0x01 .req01 ∧ FailsCrcAQ .request 0x02 .req02 ∧
    FailsCrcAQ .request 0x03 .req03 ∧ FailsCrcAQ .request 0x04 .req04) ∧
  FailsCrcAQBD .request 0x0F .req0F ∧ FailsCrcAQBD .request 0x10 .req10

/-- A frame kind does, step by step, what FEEDN of its bytes does, but for the returned count (log entries 6, 8, 9); and
where a frame can begin and the address is accepted, its first step is the address byte's FEED (44_frames_response.md,
45_frames_request.md), the other bytes still to come. -/
def Obligations.FrameKindIsFeednOfItsBytes : Prop :=
  (∀ i s bytes, encode s.cfg i = some (.frame bytes) →
    exec i s = andThen (exec (.feedn bytes) s) fun t => .next { t with
      returned := s.returned, delivery := t.delivery.map fun d => { d with kind := .frame } }) ∧
  ∀ i s addr rest, encode s.cfg i = some (.frame (addr :: rest)) → TakesFrame s s.cfg.role addr →
    exec i s = .next { State.powerOn s.cfg with
      slaveAddress := addr, crc := crcOfBytes [addr], state := .functionCode
      script := s.script, events := s.events, returned := s.returned
      delivery := some { kind := .frame, rest := rest, consumed := 1 } }

/-! ## The step -/

/-- With no composite in progress a step takes the script's next item, decodes it, and runs the instruction on the state
without that item (log entry 5); in the middle of a composite it is the FEED of the next byte, after which the composite is
over, with FEEDN's count returned, or one byte further (46_host_interface.md sections 1 and 2; log entries 6, 8, 9). -/
def Obligations.StepRunsTheDecodedInstruction : Prop :=
  (∀ s item rest i, s.delivery = none → s.script = item :: rest → decode s.cfg item = .ok i →
    step s = exec i { s with script := rest }) ∧
  ∀ s k b bs n, s.delivery = some { kind := k, rest := b :: bs, consumed := n } →
    step s = andThen (exec (.feed b) s) fun t => .next
      (if t.state = .error ∨ bs = [] then
        { t with delivery := none, returned := if k = .feedn then .count (n + 1) else t.returned }
      else { t with delivery := some { kind := k, rest := bs, consumed := n + 1 } })

/-- A step's output is a list of at most one event (00_scope.md section 6), for every state and everything a step can run
(log entry 7 for the list). -/
def Obligations.StepEmitsAtMostOneEvent : Prop :=
  ∀ s t, step s = .next t →
    t.events = s.events ∨ t.events = s.events ++ [.onComplete] ∨ t.events = s.events ++ [.onError]

/-- Every item that decodes to no instruction is refused with the decoder's reason; with nothing presented the block holds
its state (60_exceptions.md sections 6 and 7; log entry 5 for the empty script). What is no instruction: `cmd_op = 11`
(30_encoding.md section 6), and, since the model takes a frame item to be exactly one frame (log entry 8), a frame cut short
anywhere and bytes after a frame. -/
def Obligations.StepRefusesWhatIsNoInstruction : Prop :=
  (∀ s, s.delivery = none → s.script = [] → step s = .next s) ∧
  (∀ s item rest e, s.delivery = none → s.script = item :: rest → decode s.cfg item = .error e →
    step s = .refused (.undecoded e)) ∧
  (∀ c din, decode c (.port 3 din) = .error .unassignedCommand) ∧
  (∀ c i bytes b more, decode c (.frame (bytes ++ b :: more)) = .ok i →
    decode c (.frame bytes) = .error .truncatedFrame) ∧
  ∀ c i bytes b more, decode c (.frame bytes) = .ok i →
    decode c (.frame (bytes ++ b :: more)) = .error .trailingBytes

/-- No instruction changes the configuration (10_state.md section 6) or what the host will present next. -/
def Obligations.ExecKeepsConfiguration : Prop :=
  ∀ i s t, exec i s = .next t → t.cfg = s.cfg ∧ t.script = s.script

/-- Every instruction keeps the payload memory's canonical form, indices strictly rising: the model's own way (log entry 13) to
hold that each index has a value or none (10_state.md section 7). -/
def Obligations.ExecKeepsMemoryCanonical : Prop :=
  ∀ i s t, exec i s = .next t → Memory.wf s.buf = true → Memory.wf t.buf = true

/-- The reset state has the reachable shape (10_state.md section 8; its canonical memory is log entry 13), and no composite is
in progress, so the property of one that StepKeepsTheShape keeps holds too (log entry 9). -/
def Obligations.ResetHasTheShape : Prop :=
  (ReachableShape State.reset ∧ State.reset.delivery = none ∧ DeliveryLive State.reset) ∧
  ∀ c, ReachableShape (State.powerOn c) ∧ (State.powerOn c).delivery = none ∧ DeliveryLive (State.powerOn c)

/-- Every step keeps the reachable shape (10_state.md section 8, the invariants of a modeller, made inductive; its canonical
memory is log entry 13); and a
composite still in progress after a step has bytes to feed and has not entered `Error` (46_host_interface.md section 2; log
entry 9 for where it is held). -/
def Obligations.StepKeepsTheShape : Prop :=
  (∀ s t, ReachableShape s → step s = .next t → ReachableShape t) ∧
  ∀ s t, step s = .next t → DeliveryLive t

/-- In a terminal state of the reachable shape every element of `data()` can be read (10_state.md section 8, clause
(c)). -/
def Obligations.TerminalPayloadIsReadable : Prop :=
  ∀ s i, configLegal s.cfg = true → ReachableShape s → s.state = .complete ∨ s.state = .error → i < s.dataLen →
    ∃ b, exec (.bufRead i) s = .next { s with returned := .byte b }

/-- The other clauses of 10_state.md section 8 in the reachable shape: (a) a free buffer has length 0; (b) `Complete` has
nothing left to receive; (d), (e) in a phase the function code has a table and `phase_idx` is at the tag `state`, past the
phases it is the table's length; (f) an error kind other than `None` means `Error`. -/
def Obligations.ShapeGivesTheSanityFacts : Prop :=
  ∀ s, ReachableShape s →
    (s.bufAlloc = false → s.dataLen = 0) ∧
    (s.state = .complete → s.dataToReceive = 0) ∧
    (s.state ∈ [.address, .quantity, .byteCount, .data] →
      supportedCodes.contains s.functionCode = true ∧
      ∃ t, phaseTable s.cfg.role s.functionCode = some t ∧ s.phaseIdx < t.length ∧ t[s.phaseIdx]? = some s.state) ∧
    (s.state ∈ [.firstCRC, .secondCRC, .complete] →
      ∃ t, phaseTable s.cfg.role s.functionCode = some t ∧ s.phaseIdx = t.length) ∧
    (s.error ≠ 0 → s.state = .error)

/-! ## Encodings -/

/-- Decoding what a well-formed instruction encodes to gives it back: no operand bit of any layout is dropped. -/
def Obligations.DecodeOfEncodeIsTheInstruction : Prop :=
  ∀ cfg i item, WellFormed i = true → encode cfg i = some item → decode cfg item = .ok i

/-- A frame that decodes is well-formed, and encoding it gives its bytes back: one reading for each frame. -/
def Obligations.EncodeOfDecodeIsTheFrame : Prop :=
  ∀ cfg bytes i, decode cfg (.frame bytes) = .ok i →
    WellFormed i = true ∧ encode cfg i = some (.frame bytes)

/-- The function-code map (30_encoding.md sections 3 and 4): bit 7 selects the exception layout whatever the role, exactly
120 codes are illegal, and a supported code opens a longer frame. -/
def Obligations.FunctionCodesFallInThreeClasses : Prop :=
  (∀ cfg addr (fc : Byte) code, fc.msb = true → decode cfg (.frame [addr, fc, code]) =
    .ok (match cfg.role with | .response => .rspExc addr fc code | .request => .reqExc addr fc code)) ∧
  (∀ cfg addr (fc : Byte), fc.msb = false → supportedCodes.contains fc = false →
    decode cfg (.frame [addr, fc]) =
      .ok (match cfg.role with | .response => .rspIllegal addr fc | .request => .reqIllegal addr fc)) ∧
  (∀ cfg addr fc, supportedCodes.contains fc = true →
    decode cfg (.frame [addr, fc]) = .error .truncatedFrame) ∧
  ((List.range 256).filter fun n =>
    !(BitVec.ofNat 8 n).msb && !supportedCodes.contains (BitVec.ofNat 8 n)).length = 120

/-- The wire order of 16-bit fields (20_memory.md section 2): `Big` sends the high byte of a field first and the low byte
of the CRC first, `Little` the other way round. -/
def Obligations.WireOrderFollowsEndianness : Prop :=
  (∀ b1 b2, (fieldOf .big b1 b2).toNat = b1.toNat * 256 + b2.toNat ∧
    (fieldOf .little b1 b2).toNat = b2.toNat * 256 + b1.toNat) ∧
  (∀ c : Word, (crcFirst .big c).toNat = c.toNat % 256 ∧ (crcSecond .big c).toNat = c.toNat / 256 ∧
    (crcFirst .little c).toNat = c.toNat / 256 ∧ (crcSecond .little c).toNat = c.toNat % 256)

/-- `CFG0` of 95_test_vectors.md section 0, with the role and the wire order given. -/
def Sys2Proof.Machine.sampleConfig (role : Role) (e : Endianness) : Config where
  role := role
  mySlaveAddress := 1
  endianness := e
  swapRegisters := false
  registerSize := 2
  byteCountLimit := 96

/-- Words written out from the spec's layouts decode to the instructions they stand for (sanity). -/
def Obligations.SampleFramesDecode : Prop :=
  decode (sampleConfig .response .big) (.frame [0x01, 0x03, 0x04, 0x00, 0x06, 0x00, 0x05, 0xDA, 0x31]) =
    .ok (.rsp03 0x01 0x04 [0x00, 0x06, 0x00, 0x05] 0x31DA) ∧
  decode (sampleConfig .response .big) (.frame [0x01, 0x05, 0x00, 0xAC, 0xFF, 0x00, 0x4C, 0x1B]) =
    .ok (.rsp05 0x01 0x00AC 0xFF 0x00 0x1B4C) ∧
  decode (sampleConfig .request .big) (.frame [0x01, 0x04, 0x01, 0x31, 0x00, 0x1E, 0x20, 0x31]) =
    .ok (.req04 0x01 0x0131 0x001E 0x3120) ∧
  decode (sampleConfig .request .little)
      (.frame [0x01, 0x10, 0x01, 0x00, 0x02, 0x00, 0x04, 0x00, 0x0A, 0x01, 0x02, 0x4E, 0x7C]) =
    .ok (.req10 0x01 0x0001 0x0002 0x04 [0x00, 0x0A, 0x01, 0x02] 0x4E7C) ∧
  decode (sampleConfig .response .big) (.port 1 0x5A) = .ok (.feed 0x5A)

/-! ## Accessors -/

/-- R33: the two flags are functions of `state`; at most one of them is 1, and after reset both are 0. -/
def Obligations.FlagsAreFunctionsOfState : Prop :=
  (∀ s, isComplete s = true ↔ s.state = .complete) ∧ (∀ s, isError s = true ↔ s.state = .error) ∧
  (∀ s, ¬(isComplete s = true ∧ isError s = true)) ∧
  ∀ c, isComplete (State.powerOn c) = false ∧ isError (State.powerOn c) = false

/-- The accessors return what the state holds (46_host_interface.md section 3): the eleven codes of `state()`
(30_encoding.md section 6, D3), the registers, the payload elements, `data_len` of them, and the two flags. -/
def Obligations.AccessorsReadTheState : Prop :=
  ∀ s,
    ((s.state = .slaveAddress → accState s = 0) ∧ (s.state = .functionCode → accState s = 1) ∧
      (s.state = .address → accState s = 2) ∧ (s.state = .quantity → accState s = 3) ∧
      (s.state = .byteCount → accState s = 4) ∧ (s.state = .data → accState s = 5) ∧
      (s.state = .modbusException → accState s = 6) ∧ (s.state = .firstCRC → accState s = 7) ∧
      (s.state = .secondCRC → accState s = 8) ∧ (s.state = .complete → accState s = 9) ∧
      (s.state = .error → accState s = 10)) ∧
    accSlaveAddress s = s.slaveAddress ∧ accFunctionCode s = s.functionCode ∧ accAddress s = s.address ∧
    accQuantity s = s.quantity ∧ accByteCount s = s.byteCount ∧ accCrc s = s.crc ∧ accErrorKind s = s.error ∧
    (accData s).length = s.dataLen ∧ (∀ i, i < s.dataLen → (accData s)[i]? = some (memRead s.buf i)) ∧
    isComplete s = decide (s.state = .complete) ∧ isError s = decide (s.state = .error)
end

