-- ==== Sys2Proof/Laws/Memory.lean ====
section
/-! SUPPORT. The laws of the payload memory: read after write, and the canonical form, which every operation keeps and
which makes equal contents equal lists. -/

namespace Sys2Proof.Machine

@[simp] theorem memRead_nil (i : Nat) : memRead [] i = none := rfl

/-- Below the first index nothing is listed. -/
theorem memRead_of_lt_head {c : Host.Cell} {rest : Memory} {i : Nat} (h : Memory.wf (c :: rest) = true)
    (hi : i < c.1) : memRead (c :: rest) i = none := by
  induction rest generalizing c with
  | nil => simp [memRead]; omega
  | cons d rest ih =>
    simp only [Memory.wf, Bool.and_eq_true, decide_eq_true_eq] at h
    rw [memRead, if_neg (by omega)]
    exact ih h.2 (by omega)

theorem memRead_memWrite_same (m : Memory) (i : Nat) (v : Byte) : memRead (memWrite m i v) i = some v := by
  induction m with
  | nil => simp [memWrite, memRead]
  | cons c rest ih =>
    rw [memWrite]
    split
    · simp [memRead]
    · split
      · simp [memRead]
      · rw [memRead, if_neg (by omega), ih]

theorem memRead_memWrite_ne (m : Memory) {i j : Nat} (v : Byte) (h : j ≠ i) :
    memRead (memWrite m i v) j = memRead m j := by
  induction m with
  | nil => simp [memWrite, memRead]; omega
  | cons c rest ih =>
    rw [memWrite]
    split
    · rw [memRead, if_neg (by simpa using h.symm)]
    · split
      · next hi =>
        rw [memRead, memRead, if_neg (by simpa using h.symm), if_neg (by omega)]
      · rw [memRead, memRead, ih]

theorem memRead_memWrite (m : Memory) (i j : Nat) (v : Byte) :
    memRead (memWrite m i v) j = if j = i then some v else memRead m j := by
  split
  · next h => subst h; exact memRead_memWrite_same m j v
  · next h => exact memRead_memWrite_ne m v h

@[simp] theorem Memory.wf_nil : Memory.wf [] = true := rfl

theorem Memory.wf_tail {c : Host.Cell} {rest : Memory} (h : Memory.wf (c :: rest) = true) :
    Memory.wf rest = true := by
  cases rest with
  | nil => rfl
  | cons d rest =>
    simp only [Memory.wf, Bool.and_eq_true] at h
    exact h.2

theorem Memory.wf_cons {c : Host.Cell} {rest : Memory} (h : Memory.wf rest = true)
    (hc : ∀ d ∈ rest.head?, c.1 < d.1) : Memory.wf (c :: rest) = true := by
  cases rest with
  | nil => rfl
  | cons d rest => simp [Memory.wf, h, hc d (by simp)]

/-- A write keeps the canonical form. -/
theorem memWrite_wf {m : Memory} (h : Memory.wf m = true) (i : Nat) (v : Byte) :
    Memory.wf (memWrite m i v) = true := by
  induction m with
  | nil => rfl
  | cons c rest ih =>
    rw [memWrite]
    split
    · next hi => exact Memory.wf_cons h (by simpa using hi)
    · split
      · next hi =>
        cases rest with
        | nil => rfl
        | cons d rest =>
          simp only [Memory.wf, Bool.and_eq_true, decide_eq_true_eq] at h ⊢
          exact ⟨by omega, h.2⟩
      · next h1 h2 =>
        refine Memory.wf_cons (ih (Memory.wf_tail h)) ?_
        cases rest with
        | nil => simp [memWrite]; omega
        | cons d rest =>
          simp only [Memory.wf, Bool.and_eq_true, decide_eq_true_eq] at h
          rw [memWrite]
          split
          · simp; omega
          · split
            · simp; omega
            · simpa using h.1

/-- Canonical memories that read alike are the same data. -/
theorem Memory.eq_of_memRead_eq {m n : Memory} (hm : Memory.wf m = true) (hn : Memory.wf n = true)
    (h : ∀ i, memRead m i = memRead n i) : m = n := by
  induction m generalizing n with
  | nil =>
    cases n with
    | nil => rfl
    | cons d n => simpa [memRead] using h d.1
  | cons c m ih =>
    cases n with
    | nil => simpa [memRead] using (h c.1).symm
    | cons d n =>
      have hcd : c.1 = d.1 := by
        rcases Nat.lt_trichotomy c.1 d.1 with hlt | heq | hgt
        · have := h c.1
          rw [memRead_of_lt_head hn hlt] at this
          simp [memRead] at this
        · exact heq
        · have := h d.1
          rw [memRead_of_lt_head hm hgt] at this
          simp [memRead] at this
      have hv : c.2 = d.2 := by
        have := h c.1
        simpa [memRead, hcd] using this
      have hrest : m = n := by
        refine ih (Memory.wf_tail hm) (Memory.wf_tail hn) fun i => ?_
        by_cases hi : c.1 = i
        · have low : ∀ {e : Host.Cell} {r : Memory}, Memory.wf (e :: r) = true → memRead r e.1 = none := by
            intro e r hr
            cases r with
            | nil => rfl
            | cons f r =>
              simp only [Memory.wf, Bool.and_eq_true, decide_eq_true_eq] at hr
              exact memRead_of_lt_head hr.2 hr.1
          rw [← hi, low hm, hcd, low hn]
        · have := h i
          rwa [memRead, if_neg hi, memRead, if_neg (by omega)] at this
      rw [hrest, Prod.ext hcd hv]

end Sys2Proof.Machine
end

