-- ==== Sys2Proof/Laws/State.lean ====
section
/-! SUPPORT. What every named update does to every field of `State`, so that no later proof unfolds a record update. -/

namespace Sys2Proof.Machine

section Fields

variable (s : State)


@[simp] theorem foldCrc_cfg (b : Byte) : (foldCrc b s).cfg = s.cfg := rfl
@[simp] theorem foldCrc_slaveAddress (b : Byte) : (foldCrc b s).slaveAddress = s.slaveAddress := rfl
@[simp] theorem foldCrc_functionCode (b : Byte) : (foldCrc b s).functionCode = s.functionCode := rfl
@[simp] theorem foldCrc_address (b : Byte) : (foldCrc b s).address = s.address := rfl
@[simp] theorem foldCrc_quantity (b : Byte) : (foldCrc b s).quantity = s.quantity := rfl
@[simp] theorem foldCrc_byteCount (b : Byte) : (foldCrc b s).byteCount = s.byteCount := rfl
@[simp] theorem foldCrc_crc (b : Byte) : (foldCrc b s).crc = crcFoldByte s.crc b := rfl
@[simp] theorem foldCrc_error (b : Byte) : (foldCrc b s).error = s.error := rfl
@[simp] theorem foldCrc_state (b : Byte) : (foldCrc b s).state = s.state := rfl
@[simp] theorem foldCrc_phaseIdx (b : Byte) : (foldCrc b s).phaseIdx = s.phaseIdx := rfl
@[simp] theorem foldCrc_dataToReceive (b : Byte) : (foldCrc b s).dataToReceive = s.dataToReceive := rfl
@[simp] theorem foldCrc_bufAlloc (b : Byte) : (foldCrc b s).bufAlloc = s.bufAlloc := rfl
@[simp] theorem foldCrc_dataLen (b : Byte) : (foldCrc b s).dataLen = s.dataLen := rfl
@[simp] theorem foldCrc_wptr (b : Byte) : (foldCrc b s).wptr = s.wptr := rfl
@[simp] theorem foldCrc_rcnt (b : Byte) : (foldCrc b s).rcnt = s.rcnt := rfl
@[simp] theorem foldCrc_buf (b : Byte) : (foldCrc b s).buf = s.buf := rfl
@[simp] theorem foldCrc_script (b : Byte) : (foldCrc b s).script = s.script := rfl
@[simp] theorem foldCrc_delivery (b : Byte) : (foldCrc b s).delivery = s.delivery := rfl
@[simp] theorem foldCrc_events (b : Byte) : (foldCrc b s).events = s.events := rfl
@[simp] theorem foldCrc_returned (b : Byte) : (foldCrc b s).returned = s.returned := rfl

@[simp] theorem raiseError_cfg (k : Byte) : (raiseError k s).cfg = s.cfg := rfl
@[simp] theorem raiseError_slaveAddress (k : Byte) : (raiseError k s).slaveAddress = s.slaveAddress := rfl
@[simp] theorem raiseError_functionCode (k : Byte) : (raiseError k s).functionCode = s.functionCode := rfl
@[simp] theorem raiseError_address (k : Byte) : (raiseError k s).address = s.address := rfl
@[simp] theorem raiseError_quantity (k : Byte) : (raiseError k s).quantity = s.quantity := rfl
@[simp] theorem raiseError_byteCount (k : Byte) : (raiseError k s).byteCount = s.byteCount := rfl
@[simp] theorem raiseError_crc (k : Byte) : (raiseError k s).crc = s.crc := rfl
@[simp] theorem raiseError_error (k : Byte) : (raiseError k s).error = k := rfl
@[simp] theorem raiseError_state (k : Byte) : (raiseError k s).state = .error := rfl
@[simp] theorem raiseError_phaseIdx (k : Byte) : (raiseError k s).phaseIdx = s.phaseIdx := rfl
@[simp] theorem raiseError_dataToReceive (k : Byte) : (raiseError k s).dataToReceive = s.dataToReceive := rfl
@[simp] theorem raiseError_bufAlloc (k : Byte) : (raiseError k s).bufAlloc = s.bufAlloc := rfl
@[simp] theorem raiseError_dataLen (k : Byte) : (raiseError k s).dataLen = s.dataLen := rfl
@[simp] theorem raiseError_wptr (k : Byte) : (raiseError k s).wptr = s.wptr := rfl
@[simp] theorem raiseError_rcnt (k : Byte) : (raiseError k s).rcnt = s.rcnt := rfl
@[simp] theorem raiseError_buf (k : Byte) : (raiseError k s).buf = s.buf := rfl
@[simp] theorem raiseError_script (k : Byte) : (raiseError k s).script = s.script := rfl
@[simp] theorem raiseError_delivery (k : Byte) : (raiseError k s).delivery = s.delivery := rfl
@[simp] theorem raiseError_events (k : Byte) : (raiseError k s).events = s.events ++ [.onError] := rfl
@[simp] theorem raiseError_returned (k : Byte) : (raiseError k s).returned = s.returned := rfl

@[simp] theorem completeFrame_cfg : (completeFrame s).cfg = s.cfg := rfl
@[simp] theorem completeFrame_slaveAddress : (completeFrame s).slaveAddress = s.slaveAddress := rfl
@[simp] theorem completeFrame_functionCode : (completeFrame s).functionCode = s.functionCode := rfl
@[simp] theorem completeFrame_address : (completeFrame s).address = s.address := rfl
@[simp] theorem completeFrame_quantity : (completeFrame s).quantity = s.quantity := rfl
@[simp] theorem completeFrame_byteCount : (completeFrame s).byteCount = s.byteCount := rfl
@[simp] theorem completeFrame_crc : (completeFrame s).crc = s.crc := rfl
@[simp] theorem completeFrame_error : (completeFrame s).error = s.error := rfl
@[simp] theorem completeFrame_state : (completeFrame s).state = .complete := rfl
@[simp] theorem completeFrame_phaseIdx : (completeFrame s).phaseIdx = s.phaseIdx := rfl
@[simp] theorem completeFrame_dataToReceive : (completeFrame s).dataToReceive = s.dataToReceive := rfl
@[simp] theorem completeFrame_bufAlloc : (completeFrame s).bufAlloc = s.bufAlloc := rfl
@[simp] theorem completeFrame_dataLen : (completeFrame s).dataLen = s.dataLen := rfl
@[simp] theorem completeFrame_wptr : (completeFrame s).wptr = s.wptr := rfl
@[simp] theorem completeFrame_rcnt : (completeFrame s).rcnt = s.rcnt := rfl
@[simp] theorem completeFrame_buf : (completeFrame s).buf = s.buf := rfl
@[simp] theorem completeFrame_script : (completeFrame s).script = s.script := rfl
@[simp] theorem completeFrame_delivery : (completeFrame s).delivery = s.delivery := rfl
@[simp] theorem completeFrame_events : (completeFrame s).events = s.events ++ [.onComplete] := rfl
@[simp] theorem completeFrame_returned : (completeFrame s).returned = s.returned := rfl

@[simp] theorem freeBuffer_cfg : (freeBuffer s).cfg = s.cfg := rfl
@[simp] theorem freeBuffer_slaveAddress : (freeBuffer s).slaveAddress = s.slaveAddress := rfl
@[simp] theorem freeBuffer_functionCode : (freeBuffer s).functionCode = s.functionCode := rfl
@[simp] theorem freeBuffer_address : (freeBuffer s).address = s.address := rfl
@[simp] theorem freeBuffer_quantity : (freeBuffer s).quantity = s.quantity := rfl
@[simp] theorem freeBuffer_byteCount : (freeBuffer s).byteCount = s.byteCount := rfl
@[simp] theorem freeBuffer_crc : (freeBuffer s).crc = s.crc := rfl
@[simp] theorem freeBuffer_error : (freeBuffer s).error = s.error := rfl
@[simp] theorem freeBuffer_state : (freeBuffer s).state = s.state := rfl
@[simp] theorem freeBuffer_phaseIdx : (freeBuffer s).phaseIdx = s.phaseIdx := rfl
@[simp] theorem freeBuffer_dataToReceive : (freeBuffer s).dataToReceive = s.dataToReceive := rfl
@[simp] theorem freeBuffer_bufAlloc : (freeBuffer s).bufAlloc = false := rfl
@[simp] theorem freeBuffer_dataLen : (freeBuffer s).dataLen = 0 := rfl
@[simp] theorem freeBuffer_wptr : (freeBuffer s).wptr = 0 := rfl
@[simp] theorem freeBuffer_rcnt : (freeBuffer s).rcnt = 0 := rfl
@[simp] theorem freeBuffer_buf : (freeBuffer s).buf = [] := rfl
@[simp] theorem freeBuffer_script : (freeBuffer s).script = s.script := rfl
@[simp] theorem freeBuffer_delivery : (freeBuffer s).delivery = s.delivery := rfl
@[simp] theorem freeBuffer_events : (freeBuffer s).events = s.events := rfl
@[simp] theorem freeBuffer_returned : (freeBuffer s).returned = s.returned := rfl

@[simp] theorem resetBlock_cfg : (resetBlock s).cfg = s.cfg := rfl
@[simp] theorem resetBlock_slaveAddress : (resetBlock s).slaveAddress = 0 := rfl
@[simp] theorem resetBlock_functionCode : (resetBlock s).functionCode = 0 := rfl
@[simp] theorem resetBlock_address : (resetBlock s).address = 0 := rfl
@[simp] theorem resetBlock_quantity : (resetBlock s).quantity = 0 := rfl
@[simp] theorem resetBlock_byteCount : (resetBlock s).byteCount = 0 := rfl
@[simp] theorem resetBlock_crc : (resetBlock s).crc = 0xFFFF := rfl
@[simp] theorem resetBlock_error : (resetBlock s).error = 0 := rfl
@[simp] theorem resetBlock_state : (resetBlock s).state = .slaveAddress := rfl
@[simp] theorem resetBlock_phaseIdx : (resetBlock s).phaseIdx = 0 := rfl
@[simp] theorem resetBlock_dataToReceive : (resetBlock s).dataToReceive = 0 := rfl
@[simp] theorem resetBlock_bufAlloc : (resetBlock s).bufAlloc = false := rfl
@[simp] theorem resetBlock_dataLen : (resetBlock s).dataLen = 0 := rfl
@[simp] theorem resetBlock_wptr : (resetBlock s).wptr = 0 := rfl
@[simp] theorem resetBlock_rcnt : (resetBlock s).rcnt = 0 := rfl
@[simp] theorem resetBlock_buf : (resetBlock s).buf = [] := rfl
@[simp] theorem resetBlock_script : (resetBlock s).script = s.script := rfl
@[simp] theorem resetBlock_delivery : (resetBlock s).delivery = s.delivery := rfl
@[simp] theorem resetBlock_events : (resetBlock s).events = s.events := rfl
@[simp] theorem resetBlock_returned : (resetBlock s).returned = s.returned := rfl

@[simp] theorem allocBuffer_cfg (n : Nat) : (allocBuffer n s).cfg = s.cfg := rfl
@[simp] theorem allocBuffer_slaveAddress (n : Nat) : (allocBuffer n s).slaveAddress = s.slaveAddress := rfl
@[simp] theorem allocBuffer_functionCode (n : Nat) : (allocBuffer n s).functionCode = s.functionCode := rfl
@[simp] theorem allocBuffer_address (n : Nat) : (allocBuffer n s).address = s.address := rfl
@[simp] theorem allocBuffer_quantity (n : Nat) : (allocBuffer n s).quantity = s.quantity := rfl
@[simp] theorem allocBuffer_byteCount (n : Nat) : (allocBuffer n s).byteCount = s.byteCount := rfl
@[simp] theorem allocBuffer_crc (n : Nat) : (allocBuffer n s).crc = s.crc := rfl
@[simp] theorem allocBuffer_error (n : Nat) : (allocBuffer n s).error = s.error := rfl
@[simp] theorem allocBuffer_state (n : Nat) : (allocBuffer n s).state = s.state := rfl
@[simp] theorem allocBuffer_phaseIdx (n : Nat) : (allocBuffer n s).phaseIdx = s.phaseIdx := rfl
@[simp] theorem allocBuffer_dataToReceive (n : Nat) : (allocBuffer n s).dataToReceive = s.dataToReceive := rfl
@[simp] theorem allocBuffer_bufAlloc (n : Nat) : (allocBuffer n s).bufAlloc = true := rfl
@[simp] theorem allocBuffer_dataLen (n : Nat) : (allocBuffer n s).dataLen = n := rfl
@[simp] theorem allocBuffer_wptr (n : Nat) : (allocBuffer n s).wptr = if s.cfg.swapRegisters then s.cfg.registerSize.toNat - 1 else 0 := rfl
@[simp] theorem allocBuffer_rcnt (n : Nat) : (allocBuffer n s).rcnt = if s.cfg.swapRegisters then s.cfg.registerSize.toNat else 0 := rfl
@[simp] theorem allocBuffer_buf (n : Nat) : (allocBuffer n s).buf = [] := rfl
@[simp] theorem allocBuffer_script (n : Nat) : (allocBuffer n s).script = s.script := rfl
@[simp] theorem allocBuffer_delivery (n : Nat) : (allocBuffer n s).delivery = s.delivery := rfl
@[simp] theorem allocBuffer_events (n : Nat) : (allocBuffer n s).events = s.events := rfl
@[simp] theorem allocBuffer_returned (n : Nat) : (allocBuffer n s).returned = s.returned := rfl

@[simp] theorem giveBack_cfg (r : Returned) : (giveBack r s).cfg = s.cfg := rfl
@[simp] theorem giveBack_slaveAddress (r : Returned) : (giveBack r s).slaveAddress = s.slaveAddress := rfl
@[simp] theorem giveBack_functionCode (r : Returned) : (giveBack r s).functionCode = s.functionCode := rfl
@[simp] theorem giveBack_address (r : Returned) : (giveBack r s).address = s.address := rfl
@[simp] theorem giveBack_quantity (r : Returned) : (giveBack r s).quantity = s.quantity := rfl
@[simp] theorem giveBack_byteCount (r : Returned) : (giveBack r s).byteCount = s.byteCount := rfl
@[simp] theorem giveBack_crc (r : Returned) : (giveBack r s).crc = s.crc := rfl
@[simp] theorem giveBack_error (r : Returned) : (giveBack r s).error = s.error := rfl
@[simp] theorem giveBack_state (r : Returned) : (giveBack r s).state = s.state := rfl
@[simp] theorem giveBack_phaseIdx (r : Returned) : (giveBack r s).phaseIdx = s.phaseIdx := rfl
@[simp] theorem giveBack_dataToReceive (r : Returned) : (giveBack r s).dataToReceive = s.dataToReceive := rfl
@[simp] theorem giveBack_bufAlloc (r : Returned) : (giveBack r s).bufAlloc = s.bufAlloc := rfl
@[simp] theorem giveBack_dataLen (r : Returned) : (giveBack r s).dataLen = s.dataLen := rfl
@[simp] theorem giveBack_wptr (r : Returned) : (giveBack r s).wptr = s.wptr := rfl
@[simp] theorem giveBack_rcnt (r : Returned) : (giveBack r s).rcnt = s.rcnt := rfl
@[simp] theorem giveBack_buf (r : Returned) : (giveBack r s).buf = s.buf := rfl
@[simp] theorem giveBack_script (r : Returned) : (giveBack r s).script = s.script := rfl
@[simp] theorem giveBack_delivery (r : Returned) : (giveBack r s).delivery = s.delivery := rfl
@[simp] theorem giveBack_events (r : Returned) : (giveBack r s).events = s.events := rfl
@[simp] theorem giveBack_returned (r : Returned) : (giveBack r s).returned = r := rfl

@[simp] theorem advancePhase_cfg : (advancePhase s).cfg = s.cfg := rfl
@[simp] theorem advancePhase_slaveAddress : (advancePhase s).slaveAddress = s.slaveAddress := rfl
@[simp] theorem advancePhase_functionCode : (advancePhase s).functionCode = s.functionCode := rfl
@[simp] theorem advancePhase_address : (advancePhase s).address = s.address := rfl
@[simp] theorem advancePhase_quantity : (advancePhase s).quantity = s.quantity := rfl
@[simp] theorem advancePhase_byteCount : (advancePhase s).byteCount = s.byteCount := rfl
@[simp] theorem advancePhase_crc : (advancePhase s).crc = s.crc := rfl
@[simp] theorem advancePhase_error : (advancePhase s).error = s.error := rfl
@[simp] theorem advancePhase_state : (advancePhase s).state = stateAtPhase s.cfg.role s.functionCode (s.phaseIdx + 1) := rfl
@[simp] theorem advancePhase_phaseIdx : (advancePhase s).phaseIdx = s.phaseIdx + 1 := rfl
@[simp] theorem advancePhase_dataToReceive : (advancePhase s).dataToReceive = s.dataToReceive := rfl
@[simp] theorem advancePhase_bufAlloc : (advancePhase s).bufAlloc = s.bufAlloc := rfl
@[simp] theorem advancePhase_dataLen : (advancePhase s).dataLen = s.dataLen := rfl
@[simp] theorem advancePhase_wptr : (advancePhase s).wptr = s.wptr := rfl
@[simp] theorem advancePhase_rcnt : (advancePhase s).rcnt = s.rcnt := rfl
@[simp] theorem advancePhase_buf : (advancePhase s).buf = s.buf := rfl
@[simp] theorem advancePhase_script : (advancePhase s).script = s.script := rfl
@[simp] theorem advancePhase_delivery : (advancePhase s).delivery = s.delivery := rfl
@[simp] theorem advancePhase_events : (advancePhase s).events = s.events := rfl
@[simp] theorem advancePhase_returned : (advancePhase s).returned = s.returned := rfl

@[simp] theorem moveCursor_cfg : (moveCursor s).cfg = s.cfg := by
  unfold moveCursor; split <;> (try split) <;> rfl
@[simp] theorem moveCursor_slaveAddress : (moveCursor s).slaveAddress = s.slaveAddress := by
  unfold moveCursor; split <;> (try split) <;> rfl
@[simp] theorem moveCursor_functionCode : (moveCursor s).functionCode = s.functionCode := by
  unfold moveCursor; split <;> (try split) <;> rfl
@[simp] theorem moveCursor_address : (moveCursor s).address = s.address := by
  unfold moveCursor; split <;> (try split) <;> rfl
@[simp] theorem moveCursor_quantity : (moveCursor s).quantity = s.quantity := by
  unfold moveCursor; split <;> (try split) <;> rfl
@[simp] theorem moveCursor_byteCount : (moveCursor s).byteCount = s.byteCount := by
  unfold moveCursor; split <;> (try split) <;> rfl
@[simp] theorem moveCursor_crc : (moveCursor s).crc = s.crc := by
  unfold moveCursor; split <;> (try split) <;> rfl
@[simp] theorem moveCursor_error : (moveCursor s).error = s.error := by
  unfold moveCursor; split <;> (try split) <;> rfl
@[simp] theorem moveCursor_state : (moveCursor s).state = s.state := by
  unfold moveCursor; split <;> (try split) <;> rfl
@[simp] theorem moveCursor_phaseIdx : (moveCursor s).phaseIdx = s.phaseIdx := by
  unfold moveCursor; split <;> (try split) <;> rfl
@[simp] theorem moveCursor_dataToReceive : (moveCursor s).dataToReceive = s.dataToReceive := by
  unfold moveCursor; split <;> (try split) <;> rfl
@[simp] theorem moveCursor_bufAlloc : (moveCursor s).bufAlloc = s.bufAlloc := by
  unfold moveCursor; split <;> (try split) <;> rfl
@[simp] theorem moveCursor_dataLen : (moveCursor s).dataLen = s.dataLen := by
  unfold moveCursor; split <;> (try split) <;> rfl
@[simp] theorem moveCursor_buf : (moveCursor s).buf = s.buf := by
  unfold moveCursor; split <;> (try split) <;> rfl
@[simp] theorem moveCursor_script : (moveCursor s).script = s.script := by
  unfold moveCursor; split <;> (try split) <;> rfl
@[simp] theorem moveCursor_delivery : (moveCursor s).delivery = s.delivery := by
  unfold moveCursor; split <;> (try split) <;> rfl
@[simp] theorem moveCursor_events : (moveCursor s).events = s.events := by
  unfold moveCursor; split <;> (try split) <;> rfl
@[simp] theorem moveCursor_returned : (moveCursor s).returned = s.returned := by
  unfold moveCursor; split <;> (try split) <;> rfl

/-- Reset forgets whatever it is reset from: only configuration and the boundary fields survive. -/
theorem resetBlock_eq : resetBlock s =
    { State.reset with
      cfg := s.cfg, script := s.script, delivery := s.delivery, events := s.events, returned := s.returned } := rfl

@[simp] theorem resetBlock_resetBlock : resetBlock (resetBlock s) = resetBlock s := rfl

/-- A block fresh from power-on is at reset already. -/
@[simp] theorem resetBlock_powerOn (c : Config) : resetBlock (State.powerOn c) = State.powerOn c := rfl

end Fields

end Sys2Proof.Machine
end

