-- ==== Sys2Proof/Laws/Ops.lean ====
section
/-! SUPPORT. One lemma per shared operation that says everything it can do. -/

namespace Sys2Proof.Machine

/-! ## Configuration -/

theorem withLegalConfig_of_legal {s : State} {r : Result} (h : configLegal s.cfg = true) :
    withLegalConfig s r = r := if_pos h

theorem withLegalConfig_of_illegal {s : State} {r : Result} (h : configLegal s.cfg = false) :
    withLegalConfig s r = .refused .illegalConfiguration := by
  simp [withLegalConfig, h]

/-- A next state comes from a legal configuration and from the guarded answer. -/
theorem withLegalConfig_next {s t : State} {r : Result} (h : withLegalConfig s r = .next t) :
    configLegal s.cfg = true ∧ r = .next t := by
  unfold withLegalConfig at h
  split at h
  · exact ⟨‹_›, h⟩
  · cases h

/-- A legal configuration with register swap has registers of at least one byte (R45). -/
theorem registerSize_pos {c : Config} (h : configLegal c = true) (hs : c.swapRegisters = true) :
    0 < c.registerSize.toNat := by
  simp only [configLegal, hs, Bool.true_and, Bool.and_eq_true, Bool.not_eq_true', beq_eq_false_iff_ne] at h
  refine Nat.pos_of_ne_zero fun h0 => h.2 ?_
  exact BitVec.eq_of_toNat_eq (by simpa using h0)

/-! ## Sequencing -/

@[simp] theorem andThen_next (s : State) (k : State → Result) : andThen (.next s) k = k s := rfl
@[simp] theorem andThen_fault (f : Fault) (k : State → Result) : andThen (.fault f) k = .fault f := rfl
@[simp] theorem andThen_refused (r : Refusal) (k : State → Result) : andThen (.refused r) k = .refused r := rfl

theorem andThen_eq_next {r : Result} {k : State → Result} {t : State} (h : andThen r k = .next t) :
    ∃ s, r = .next s ∧ k s = .next t := by
  cases r with
  | next s => exact ⟨s, rfl, h⟩
  | fault f => cases h
  | refused x => cases h

/-! ## Hidden counters -/

@[simp] theorem decrement_succ (k : HiddenCounter) (n : Nat) : decrement k (n + 1) = n := rfl

theorem decrement_of_pos (k : HiddenCounter) {n : Nat} (h : 0 < n) : decrement k n = n - 1 := by
  cases n with
  | zero => omega
  | succ n => rfl

/-! ## The payload buffer -/

theorem putByte_of_inside {v : Byte} {s : State} (h : s.wptr < s.dataLen) :
    putByte v s = .next (moveCursor { s with buf := memWrite s.buf s.wptr v }) := if_neg (by omega)

theorem putByte_of_outside {v : Byte} {s : State} (h : s.dataLen ≤ s.wptr) :
    putByte v s = .fault .bufferOverrun := if_pos h

/-- Everything `put` can answer. -/
theorem putByte_cases (v : Byte) (s : State) :
    (s.wptr < s.dataLen ∧ putByte v s = .next (moveCursor { s with buf := memWrite s.buf s.wptr v })) ∨
      (s.dataLen ≤ s.wptr ∧ putByte v s = .fault .bufferOverrun) := by
  rcases Nat.lt_or_ge s.wptr s.dataLen with h | h
  · exact .inl ⟨h, putByte_of_inside h⟩
  · exact .inr ⟨h, putByte_of_outside h⟩

theorem moveCursor_linear {s : State} (h : s.cfg.swapRegisters = false) :
    moveCursor s = { s with wptr := s.wptr + 1 } := by
  simp [moveCursor, h]

/-- Everything a payload read can answer. -/
theorem readByte_cases (i : Nat) (s : State) :
    (s.dataLen ≤ i ∧ readByte i s = .refused .noSuchElement) ∨
      (i < s.dataLen ∧ memRead s.buf i = none ∧ readByte i s = .fault .unwrittenRead) ∨
      (i < s.dataLen ∧ ∃ b, memRead s.buf i = some b ∧ readByte i s = .next (giveBack (.byte b) s)) := by
  unfold readByte
  rcases Nat.lt_or_ge i s.dataLen with h | h
  · rw [if_neg (by omega)]
    cases hb : memRead s.buf i with
    | none => exact .inr (.inl ⟨h, rfl, rfl⟩)
    | some b => exact .inr (.inr ⟨h, b, rfl, rfl⟩)
  · exact .inl ⟨h, if_pos h⟩

/-! ## Dispatch -/

/-- The tables exist for the supported codes and for nothing else (R181). -/
theorem phaseTable_isSome (role : Role) (fc : Byte) :
    (phaseTable role fc).isSome = supportedCodes.contains fc := by
  cases role <;> revert fc <;> decide

/-- The supported codes as a membership (R110). -/
theorem supportedCodes_contains (fc : Byte) : supportedCodes.contains fc = true ↔ fc ∈ supportedCodes :=
  List.contains_iff_mem

theorem phaseTable_eq_none {fc : Byte} (h : fc ∉ supportedCodes) (role : Role) : phaseTable role fc = none := by
  have hs := phaseTable_isSome role fc
  rw [Bool.eq_false_iff.mpr (mt (supportedCodes_contains fc).mp h)] at hs
  simpa using hs

/-- The tag a table holds is what `state` becomes there (R188). -/
theorem stateAtPhase_of_tag {role : Role} {fc : Byte} {p : Nat} {t : List ParserState} {tag : ParserState}
    (ht : phaseTable role fc = some t) (hp : t[p]? = some tag) : stateAtPhase role fc p = tag := by
  have hlt : p < t.length := by
    rcases Nat.lt_or_ge p t.length with h | h
    · exact h
    · rw [List.getElem?_eq_none h] at hp; cases hp
  simp only [stateAtPhase, ht, if_neg (Nat.ne_of_lt hlt), hp]

/-- Past the last tag comes `FirstCRC` (R188). -/
theorem stateAtPhase_past {role : Role} {fc : Byte} {t : List ParserState}
    (ht : phaseTable role fc = some t) : stateAtPhase role fc t.length = .firstCRC := by
  simp [stateAtPhase, ht]

/-- The six tables have four contents (R182 to R187). -/
theorem phaseTable_contents {role : Role} {fc : Byte} {t : List ParserState} (h : phaseTable role fc = some t) :
    t = [.byteCount, .data] ∨ t = [.address, .address, .data] ∨
      t = [.address, .address, .quantity, .quantity] ∨
      t = [.address, .address, .quantity, .quantity, .byteCount, .data] := by
  unfold phaseTable at h
  split at h <;> simp_all

/-- `advance()` inside a table (R188): the next tag, or `FirstCRC` past the last. -/
theorem advancePhase_eq {s : State} {t : List ParserState} (ht : phaseTable s.cfg.role s.functionCode = some t)
    (hp : s.phaseIdx < t.length) :
    advancePhase s =
      { s with phaseIdx := s.phaseIdx + 1, state := (t[s.phaseIdx + 1]?).getD .firstCRC } := by
  have hs : stateAtPhase s.cfg.role s.functionCode (s.phaseIdx + 1) = (t[s.phaseIdx + 1]?).getD .firstCRC := by
    rcases Nat.lt_or_ge (s.phaseIdx + 1) t.length with h | h
    · rw [stateAtPhase_of_tag ht (List.getElem?_eq_getElem h), List.getElem?_eq_getElem h]; rfl
    · rw [show s.phaseIdx + 1 = t.length by omega, stateAtPhase_past ht]; simp
  rw [advancePhase, hs]

end Sys2Proof.Machine
end

