-- ==== Sys2Proof/Laws/Operands.lean ====
section
/-! SUPPORT. The laws of the operand forms: bytes of a 16-bit value, wire order, half writes, the payload index. -/

namespace Sys2Proof

@[simp] theorem lowByte_joinBytes (hi lo : Byte) : lowByte (joinBytes hi lo) = lo := by
  ext i h
  simp [lowByte, joinBytes]

@[simp] theorem highByte_joinBytes (hi lo : Byte) : highByte (joinBytes hi lo) = hi := by
  ext i h
  simp [highByte, joinBytes, show 8 + i < 16 by omega, ← BitVec.getLsbD_eq_getElem, h, show i < 16 by omega]

@[simp] theorem joinBytes_high_low (v : Word) : joinBytes (highByte v) (lowByte v) = v := by
  ext i h
  by_cases h8 : i < 8
  · simp [highByte, lowByte, joinBytes, h8, ← BitVec.getLsbD_eq_getElem, h]
  · simp [highByte, lowByte, joinBytes, h8, ← BitVec.getLsbD_eq_getElem, h, show i - 8 < 8 by omega,
      show 8 + (i - 8) = i by omega]
    omega

/-- The two wire bytes of a field spell the field (R74). -/
@[simp] theorem fieldOf_wire (e : Endianness) (v : Word) : fieldOf e (fieldFirst e v) (fieldSecond e v) = v := by
  cases e <;> simp [fieldOf, fieldFirst, fieldSecond]

@[simp] theorem fieldFirst_fieldOf (e : Endianness) (b1 b2 : Byte) : fieldFirst e (fieldOf e b1 b2) = b1 := by
  cases e <;> simp [fieldOf, fieldFirst]

@[simp] theorem fieldSecond_fieldOf (e : Endianness) (b1 b2 : Byte) : fieldSecond e (fieldOf e b1 b2) = b2 := by
  cases e <;> simp [fieldOf, fieldSecond]

/-- The two wire bytes of a CRC spell the CRC (R75). -/
@[simp] theorem crcOf_wire (e : Endianness) (c : Word) : crcOf e (crcFirst e c) (crcSecond e c) = c := by
  cases e <;> simp [crcOf, crcFirst, crcSecond]

@[simp] theorem crcFirst_crcOf (e : Endianness) (c1 c2 : Byte) : crcFirst e (crcOf e c1 c2) = c1 := by
  cases e <;> simp [crcOf, crcFirst]

@[simp] theorem crcSecond_crcOf (e : Endianness) (c1 c2 : Byte) : crcSecond e (crcOf e c1 c2) = c2 := by
  cases e <;> simp [crcOf, crcSecond]

namespace Machine

/-- The first byte of a field, then the second, spell the field whatever it held before (R199). -/
theorem writeHalf_both (e : Endianness) (f : Word) (b1 b2 : Byte) :
    writeHalf e false (writeHalf e true f b1) b2 = fieldOf e b1 b2 := by
  cases e <;> simp [writeHalf, fieldOf]

/-- The address test as the rule words it (R197). -/
theorem acceptsAddress_iff (c : Config) (b : Byte) :
    acceptsAddress c b = true ↔ b = c.mySlaveAddress ∨ c.mySlaveAddress = 0 := by
  simp [acceptsAddress]

@[simp] theorem payloadIndex_linear {c : Config} (h : c.swapRegisters = false) (k : Nat) :
    payloadIndex c k = k := by simp [payloadIndex, h]

theorem payloadIndex_swap {c : Config} (h : c.swapRegisters = true) (k : Nat) :
    payloadIndex c k = c.registerSize.toNat * (k / c.registerSize.toNat)
      + (c.registerSize.toNat - 1 - k % c.registerSize.toNat) := by simp [payloadIndex, h]

end Machine

end Sys2Proof
end

