-- ==== Sys2Proof/Laws/Decode.lean ====
section
/-! SUPPORT. What the decoder reads after each function code: one lemma per row of the function-code map (R110), and the
payload reader's two directions. -/

namespace Sys2Proof

section Rows

variable (cfg : Config) (addr : Byte) (rest : List Byte)

theorem decodeBody_rsp01 (h : cfg.role = .response) :
    decodeBody cfg addr 0x01 rest = readBC cfg.endianness (.rsp01 addr) rest := by
  simp only [decodeBody, h]
  rfl

theorem decodeBody_rsp02 (h : cfg.role = .response) :
    decodeBody cfg addr 0x02 rest = readBC cfg.endianness (.rsp02 addr) rest := by
  simp only [decodeBody, h]
  rfl

theorem decodeBody_rsp03 (h : cfg.role = .response) :
    decodeBody cfg addr 0x03 rest = readBC cfg.endianness (.rsp03 addr) rest := by
  simp only [decodeBody, h]
  rfl

theorem decodeBody_rsp04 (h : cfg.role = .response) :
    decodeBody cfg addr 0x04 rest = readBC cfg.endianness (.rsp04 addr) rest := by
  simp only [decodeBody, h]
  rfl

theorem decodeBody_rsp05 (h : cfg.role = .response) :
    decodeBody cfg addr 0x05 rest = readAV cfg.endianness (.rsp05 addr) rest := by
  simp only [decodeBody, h]
  rfl

theorem decodeBody_rsp06 (h : cfg.role = .response) :
    decodeBody cfg addr 0x06 rest = readAV cfg.endianness (.rsp06 addr) rest := by
  simp only [decodeBody, h]
  rfl

theorem decodeBody_rsp0F (h : cfg.role = .response) :
    decodeBody cfg addr 0x0F rest = readAQ cfg.endianness (.rsp0F addr) rest := by
  simp only [decodeBody, h]
  rfl

theorem decodeBody_rsp10 (h : cfg.role = .response) :
    decodeBody cfg addr 0x10 rest = readAQ cfg.endianness (.rsp10 addr) rest := by
  simp only [decodeBody, h]
  rfl

theorem decodeBody_req01 (h : cfg.role = .request) :
    decodeBody cfg addr 0x01 rest = readAQ cfg.endianness (.req01 addr) rest := by
  simp only [decodeBody, h]
  rfl

theorem decodeBody_req02 (h : cfg.role = .request) :
    decodeBody cfg addr 0x02 rest = readAQ cfg.endianness (.req02 addr) rest := by
  simp only [decodeBody, h]
  rfl

theorem decodeBody_req03 (h : cfg.role = .request) :
    decodeBody cfg addr 0x03 rest = readAQ cfg.endianness (.req03 addr) rest := by
  simp only [decodeBody, h]
  rfl

theorem decodeBody_req04 (h : cfg.role = .request) :
    decodeBody cfg addr 0x04 rest = readAQ cfg.endianness (.req04 addr) rest := by
  simp only [decodeBody, h]
  rfl

theorem decodeBody_req05 (h : cfg.role = .request) :
    decodeBody cfg addr 0x05 rest = readAV cfg.endianness (.req05 addr) rest := by
  simp only [decodeBody, h]
  rfl

theorem decodeBody_req06 (h : cfg.role = .request) :
    decodeBody cfg addr 0x06 rest = readAV cfg.endianness (.req06 addr) rest := by
  simp only [decodeBody, h]
  rfl

theorem decodeBody_req0F (h : cfg.role = .request) :
    decodeBody cfg addr 0x0F rest = readAQBD cfg.endianness (.req0F addr) rest := by
  simp only [decodeBody, h]
  rfl

theorem decodeBody_req10 (h : cfg.role = .request) :
    decodeBody cfg addr 0x10 rest = readAQBD cfg.endianness (.req10 addr) rest := by
  simp only [decodeBody, h]
  rfl

theorem decodeBody_rspExc {fc : Byte} (h : cfg.role = .response) (hm : fc.msb = true) :
    decodeBody cfg addr fc rest = readEXC (.rspExc addr fc) rest := by
  simp only [decodeBody, h, hm, if_true]

theorem decodeBody_reqExc {fc : Byte} (h : cfg.role = .request) (hm : fc.msb = true) :
    decodeBody cfg addr fc rest = readEXC (.reqExc addr fc) rest := by
  simp only [decodeBody, h, hm, if_true]

end Rows

/-- A code that is none of the eight, by its value (R110). -/
theorem toNat_ne_of_unsupported : ∀ fc : Byte, supportedCodes.contains fc = false →
    fc.toNat ≠ 1 ∧ fc.toNat ≠ 2 ∧ fc.toNat ≠ 3 ∧ fc.toNat ≠ 4 ∧ fc.toNat ≠ 5 ∧ fc.toNat ≠ 6 ∧ fc.toNat ≠ 15 ∧
      fc.toNat ≠ 16 := by decide

/-- The last class of the map (R111). -/
theorem decodeBody_illegal (cfg : Config) (addr : Byte) (rest : List Byte) {fc : Byte} (hm : fc.msb = false)
    (hs : supportedCodes.contains fc = false) :
    decodeBody cfg addr fc rest =
      .ok (match cfg.role with | .response => .rspIllegal addr fc | .request => .reqIllegal addr fc, rest) := by
  have hne := toNat_ne_of_unsupported fc hs
  cases hr : cfg.role <;> simp only [decodeBody, hr, hm, Bool.false_eq_true, if_false] <;> split <;>
    first | omega | rfl

/-- Reading back a payload of the declared length and its CRC. -/
theorem readTail_wire (e : Endianness) {n : Nat} (mk : List Byte → Word → Instr) {data : List Byte} (crc : Word)
    (h : data.length = n) : readTail e n mk (data ++ [crcFirst e crc, crcSecond e crc]) = .ok (mk data crc, []) := by
  subst h
  simp [readTail]

/-- Everything the payload reader can accept. -/
theorem readTail_ok {e : Endianness} {n : Nat} {mk : List Byte → Word → Instr} {bs rest : List Byte} {i : Instr}
    (h : readTail e n mk bs = .ok (i, rest)) :
    ∃ data c1 c2, i = mk data (crcOf e c1 c2) ∧ data.length = n ∧ bs = data ++ c1 :: c2 :: rest := by
  unfold readTail at h
  split at h <;> cases h
  next c1 c2 hd =>
  refine ⟨bs.take n, c1, c2, rfl, ?_, ?_⟩
  · have hl := congrArg List.length hd
    simp at hl
    simp
    omega
  · rw [← hd, List.take_append_drop]

end Sys2Proof
end

