-- ==== Sys2Proof/Laws/Engine.lean ====
section
/-! SUPPORT. What the FEED step and the byte loop can do, one inversion each. -/

namespace Sys2Proof.Machine

/-- Everything a FEED can do: the implicit reset and the address handler, one of the other pure handlers, or `Data`. -/
theorem feedByte_cases (b : Byte) (s : State) :
    (s.state = .slaveAddress ∧ feedByte b s = .next (onSlaveAddress b s)) ∨
    ((s.state = .complete ∨ s.state = .error) ∧ feedByte b s = .next (onSlaveAddress b (resetBlock s))) ∨
    (s.state = .functionCode ∧ feedByte b s = .next (onFunctionCode b s)) ∨
    (s.state = .address ∧ feedByte b s = .next (onAddress b s)) ∨
    (s.state = .quantity ∧ feedByte b s = .next (onQuantity b s)) ∨
    (s.state = .byteCount ∧ feedByte b s = .next (onByteCount b s)) ∨
    (s.state = .data ∧ feedByte b s = onData b s) ∨
    (s.state = .modbusException ∧ feedByte b s = .next (onModbusException b s)) ∨
    (s.state = .firstCRC ∧ feedByte b s = .next (onFirstCRC b s)) ∨
    (s.state = .secondCRC ∧ feedByte b s = .next (onSecondCRC b s)) := by
  unfold feedByte
  split <;> simp_all

/-- The `Data` handler's only way to a next state. -/
theorem onData_next {b : Byte} {s t : State} (h : onData b s = .next t) :
    (enterData s).wptr < (enterData s).dataLen ∧
      t = finishData b (moveCursor
        { enterData s with buf := memWrite (enterData s).buf (enterData s).wptr b }) := by
  obtain ⟨u, hu, ht⟩ := andThen_eq_next h
  rcases putByte_cases b (enterData s) with ⟨hin, hp⟩ | ⟨_, hp⟩
  · rw [hp] at hu
    cases hu
    cases ht
    exact ⟨hin, rfl⟩
  · rw [hp] at hu
    cases hu

/-- In `Data` a FEED is the `Data` handler (R195). -/
theorem feedByte_of_data {b : Byte} {s : State} (hs : s.state = .data) : feedByte b s = onData b s := by
  simp only [feedByte, hs]

/-- In every other state it answers a next state (R206). -/
theorem feedByte_answers (b : Byte) {s : State} (hs : s.state ≠ .data) : ∃ t, feedByte b s = .next t := by
  unfold feedByte
  split <;> simp_all

/-- A FEED never refuses: it answers a next state or the overrun (R206). -/
theorem feedByte_ne_refused (b : Byte) (s : State) (r : Refusal) : feedByte b s ≠ .refused r := by
  by_cases hs : s.state = .data
  · rw [feedByte_of_data hs, onData]
    rcases putByte_cases b (enterData s) with ⟨_, hp⟩ | ⟨_, hp⟩ <;> rw [hp] <;> nofun
  · obtain ⟨t, ht⟩ := feedByte_answers b hs
    rw [ht]
    nofun

/-! ## The boundary fields pass through a FEED -/

/-- The state with other contents of the three boundary fields that no FEED reads or writes. -/
def withBoundary (c : List FetchItem) (d : Option Delivery) (r : Returned) (s : State) : State :=
  { s with script := c, delivery := d, returned := r }

theorem ite_withBoundary {c d r} {p : Prop} [Decidable p] {a b a' b' : State} (ha : p → a = withBoundary c d r a')
    (hb : ¬p → b = withBoundary c d r b') :
    (if p then a else b) = withBoundary c d r (if p then a' else b') := by
  split <;> simp_all

theorem moveCursor_withBoundary (c d r) (s : State) :
    moveCursor (withBoundary c d r s) = withBoundary c d r (moveCursor s) := by
  unfold moveCursor
  exact ite_withBoundary (fun _ => ite_withBoundary (fun _ => rfl) (fun _ => rfl)) (fun _ => rfl)

theorem enterData_withBoundary (c d r) (s : State) :
    enterData (withBoundary c d r s) = withBoundary c d r (enterData s) := by
  unfold enterData
  exact ite_withBoundary (fun _ => rfl) (fun _ => rfl)

theorem finishData_withBoundary (b : Byte) (c d r) (s : State) :
    finishData b (withBoundary c d r s) = withBoundary c d r (finishData b s) := by
  unfold finishData
  exact ite_withBoundary (fun _ => rfl) (fun _ => rfl)

theorem onSlaveAddress_withBoundary (b : Byte) (c d r) (s : State) :
    onSlaveAddress b (withBoundary c d r s) = withBoundary c d r (onSlaveAddress b s) := by
  unfold onSlaveAddress
  exact ite_withBoundary (fun _ => rfl) (fun _ => rfl)

theorem onData_withBoundary (b : Byte) (c d r) (s : State) :
    onData b (withBoundary c d r s) = andThen (onData b s) fun t => .next (withBoundary c d r t) := by
  simp only [onData, enterData_withBoundary]
  rcases Nat.lt_or_ge (enterData s).wptr (enterData s).dataLen with h | h
  · rw [putByte_of_inside h,
      putByte_of_inside (s := withBoundary c d r (enterData s)) (by simpa only [withBoundary] using h)]
    show Host.Outcome.next (finishData b (moveCursor (withBoundary c d r
      { enterData s with buf := memWrite (enterData s).buf (enterData s).wptr b }))) = .next _
    rw [moveCursor_withBoundary, finishData_withBoundary]
  · rw [putByte_of_outside h,
      putByte_of_outside (s := withBoundary c d r (enterData s)) (by simpa only [withBoundary] using h)]
    rfl

/-- FEED does the same whatever stands in the boundary fields, and leaves them there. -/
theorem feedByte_withBoundary (b : Byte) (c d r) (s : State) :
    feedByte b (withBoundary c d r s) = andThen (feedByte b s) fun t => .next (withBoundary c d r t) := by
  have hw : (withBoundary c d r s).state = s.state := rfl
  rcases hs : s.state <;> simp only [feedByte, hs, hw, andThen_next, onSlaveAddress_withBoundary, onData_withBoundary]
  · congr 1; unfold onFunctionCode
    exact ite_withBoundary (fun _ => rfl) (fun _ => ite_withBoundary (fun _ => rfl) (fun _ => rfl))
  · rfl
  · congr 1; unfold onQuantity
    exact ite_withBoundary (fun _ => rfl) (fun _ => rfl)
  · congr 1; unfold onByteCount
    exact ite_withBoundary (fun _ => rfl) (fun _ => ite_withBoundary (fun _ => rfl) (fun _ => rfl))
  · rfl
  · congr 1; unfold onFirstCRC
    exact ite_withBoundary (fun _ => rfl) (fun _ => rfl)
  · congr 1; unfold onSecondCRC
    exact ite_withBoundary (fun _ => ite_withBoundary (fun _ => rfl) (fun _ => rfl)) (fun _ => rfl)
  all_goals congr 1; exact onSlaveAddress_withBoundary b c d r (resetBlock s)

/-- The configuration and the boundary fields that no FEED writes. -/
def kept (s : State) : Config × List FetchItem × Option Delivery × Returned := (s.cfg, s.script, s.delivery, s.returned)

theorem kept_ite {s a b : State} {p : Prop} [Decidable p] (ha : kept a = kept s) (hb : kept b = kept s) :
    kept (if p then a else b) = kept s := by
  split <;> assumption

theorem kept_onSlaveAddress (b : Byte) (s : State) : kept (onSlaveAddress b s) = kept s := kept_ite rfl rfl

theorem kept_enterData (s : State) : kept (enterData s) = kept s := kept_ite rfl rfl

theorem kept_moveCursor (s : State) : kept (moveCursor s) = kept s := kept_ite (kept_ite rfl rfl) rfl

theorem kept_finishData (b : Byte) (s : State) : kept (finishData b s) = kept s := kept_ite rfl rfl

theorem kept_onData {b : Byte} {s t : State} (h : onData b s = .next t) : kept t = kept s := by
  obtain ⟨_, rfl⟩ := onData_next h
  rw [kept_finishData, kept_moveCursor]
  exact kept_enterData s

/-- No FEED writes them: handler by handler (R195). -/
theorem kept_feedByte {b : Byte} {s t : State} (h : feedByte b s = .next t) : kept t = kept s := by
  cases hs : s.state <;> simp only [feedByte, hs] at h
  case data => exact kept_onData h
  all_goals cases h
  case slaveAddress => exact kept_onSlaveAddress b s
  case functionCode => exact kept_ite rfl (kept_ite rfl rfl)
  case address => rfl
  case quantity => exact kept_ite rfl rfl
  case byteCount => exact kept_ite rfl (kept_ite rfl rfl)
  case modbusException => rfl
  case firstCRC => exact kept_ite rfl rfl
  case secondCRC => exact kept_ite (kept_ite rfl rfl) rfl
  all_goals exact kept_onSlaveAddress b (resetBlock s)

/-- What no FEED writes, field by field. -/
theorem feedByte_keeps {b : Byte} {s t : State} (h : feedByte b s = .next t) :
    t.cfg = s.cfg ∧ t.script = s.script ∧ t.delivery = s.delivery ∧ t.returned = s.returned := by
  simpa only [kept, Prod.mk.injEq] using kept_feedByte h

/-! ## One pass of the loop of a composite -/

section Fields

variable (k : DeliveryKind) (n : Nat) (bs : List Byte) (s : State)

@[simp] theorem endDelivery_cfg : (endDelivery k n s).cfg = s.cfg := by cases k <;> rfl
@[simp] theorem endDelivery_slaveAddress : (endDelivery k n s).slaveAddress = s.slaveAddress := by cases k <;> rfl
@[simp] theorem endDelivery_functionCode : (endDelivery k n s).functionCode = s.functionCode := by cases k <;> rfl
@[simp] theorem endDelivery_address : (endDelivery k n s).address = s.address := by cases k <;> rfl
@[simp] theorem endDelivery_quantity : (endDelivery k n s).quantity = s.quantity := by cases k <;> rfl
@[simp] theorem endDelivery_byteCount : (endDelivery k n s).byteCount = s.byteCount := by cases k <;> rfl
@[simp] theorem endDelivery_crc : (endDelivery k n s).crc = s.crc := by cases k <;> rfl
@[simp] theorem endDelivery_error : (endDelivery k n s).error = s.error := by cases k <;> rfl
@[simp] theorem endDelivery_state : (endDelivery k n s).state = s.state := by cases k <;> rfl
@[simp] theorem endDelivery_phaseIdx : (endDelivery k n s).phaseIdx = s.phaseIdx := by cases k <;> rfl
@[simp] theorem endDelivery_dataToReceive : (endDelivery k n s).dataToReceive = s.dataToReceive := by cases k <;> rfl
@[simp] theorem endDelivery_bufAlloc : (endDelivery k n s).bufAlloc = s.bufAlloc := by cases k <;> rfl
@[simp] theorem endDelivery_dataLen : (endDelivery k n s).dataLen = s.dataLen := by cases k <;> rfl
@[simp] theorem endDelivery_wptr : (endDelivery k n s).wptr = s.wptr := by cases k <;> rfl
@[simp] theorem endDelivery_rcnt : (endDelivery k n s).rcnt = s.rcnt := by cases k <;> rfl
@[simp] theorem endDelivery_buf : (endDelivery k n s).buf = s.buf := by cases k <;> rfl
@[simp] theorem endDelivery_script : (endDelivery k n s).script = s.script := by cases k <;> rfl
@[simp] theorem endDelivery_events : (endDelivery k n s).events = s.events := by cases k <;> rfl
@[simp] theorem endDelivery_delivery : (endDelivery k n s).delivery = none := by cases k <;> rfl
@[simp] theorem endDelivery_frame_returned : (endDelivery .frame n s).returned = s.returned := rfl
@[simp] theorem endDelivery_feedn_returned : (endDelivery .feedn n s).returned = .count n := rfl

@[simp] theorem afterByte_cfg : (afterByte k n bs s).cfg = s.cfg := by
  unfold afterByte; split <;> simp
@[simp] theorem afterByte_slaveAddress : (afterByte k n bs s).slaveAddress = s.slaveAddress := by
  unfold afterByte; split <;> simp
@[simp] theorem afterByte_functionCode : (afterByte k n bs s).functionCode = s.functionCode := by
  unfold afterByte; split <;> simp
@[simp] theorem afterByte_address : (afterByte k n bs s).address = s.address := by
  unfold afterByte; split <;> simp
@[simp] theorem afterByte_quantity : (afterByte k n bs s).quantity = s.quantity := by
  unfold afterByte; split <;> simp
@[simp] theorem afterByte_byteCount : (afterByte k n bs s).byteCount = s.byteCount := by
  unfold afterByte; split <;> simp
@[simp] theorem afterByte_crc : (afterByte k n bs s).crc = s.crc := by
  unfold afterByte; split <;> simp
@[simp] theorem afterByte_error : (afterByte k n bs s).error = s.error := by
  unfold afterByte; split <;> simp
@[simp] theorem afterByte_state : (afterByte k n bs s).state = s.state := by
  unfold afterByte; split <;> simp
@[simp] theorem afterByte_phaseIdx : (afterByte k n bs s).phaseIdx = s.phaseIdx := by
  unfold afterByte; split <;> simp
@[simp] theorem afterByte_dataToReceive : (afterByte k n bs s).dataToReceive = s.dataToReceive := by
  unfold afterByte; split <;> simp
@[simp] theorem afterByte_bufAlloc : (afterByte k n bs s).bufAlloc = s.bufAlloc := by
  unfold afterByte; split <;> simp
@[simp] theorem afterByte_dataLen : (afterByte k n bs s).dataLen = s.dataLen := by
  unfold afterByte; split <;> simp
@[simp] theorem afterByte_wptr : (afterByte k n bs s).wptr = s.wptr := by
  unfold afterByte; split <;> simp
@[simp] theorem afterByte_rcnt : (afterByte k n bs s).rcnt = s.rcnt := by
  unfold afterByte; split <;> simp
@[simp] theorem afterByte_buf : (afterByte k n bs s).buf = s.buf := by
  unfold afterByte; split <;> simp
@[simp] theorem afterByte_script : (afterByte k n bs s).script = s.script := by
  unfold afterByte; split <;> simp
@[simp] theorem afterByte_events : (afterByte k n bs s).events = s.events := by
  unfold afterByte; split <;> simp

end Fields

/-- After the last byte, or one that leaves `state = Error`, the composite is over. -/
theorem afterByte_of_end {k : DeliveryKind} {n : Nat} {bs : List Byte} {s : State} (h : s.state = .error ∨ bs = []) :
    afterByte k n bs s = endDelivery k n s := if_pos h

/-- After any other byte its next FEED is the next step. -/
theorem afterByte_of_more {k : DeliveryKind} {n : Nat} {bs : List Byte} {s : State} (he : s.state ≠ .error)
    (hb : bs ≠ []) : afterByte k n bs s = { s with delivery := some { kind := k, rest := bs, consumed := n } } :=
  if_neg (by tauto)

@[simp] theorem deliver_nil (k : DeliveryKind) (n : Nat) (s : State) : deliver k n [] s = .next (endDelivery k n s) := rfl

/-- A pass with a byte is one FEED. -/
theorem deliver_cons {k : DeliveryKind} {n : Nat} {b : Byte} {bs : List Byte} {s t : State} (h : feedByte b s = .next t) :
    deliver k n (b :: bs) s = .next (afterByte k (n + 1) bs t) := by
  simp [deliver, h]

/-- Everything a pass that goes well can be: nothing left to feed, or one FEED. -/
theorem deliver_next {k : DeliveryKind} {n : Nat} {bs : List Byte} {s t : State} (h : deliver k n bs s = .next t) :
    (bs = [] ∧ t = endDelivery k n s) ∨
      ∃ b cs u, bs = b :: cs ∧ feedByte b s = .next u ∧ t = afterByte k (n + 1) cs u := by
  cases bs with
  | nil => cases h; exact .inl ⟨rfl, rfl⟩
  | cons b cs =>
    obtain ⟨u, hu, ht⟩ := andThen_eq_next h
    cases ht
    exact .inr ⟨b, cs, u, rfl, hu, rfl⟩

/-- A pass overwrites what composite was in progress before it. -/
theorem deliver_forgets (k : DeliveryKind) (n : Nat) (bs : List Byte) (s : State) (d : Option Delivery) :
    deliver k n bs { s with delivery := d } = deliver k n bs s := by
  cases bs with
  | nil => cases k <;> rfl
  | cons b bs =>
    simp only [deliver]
    rw [show ({ s with delivery := d } : State) = withBoundary s.script d s.returned s from rfl, feedByte_withBoundary]
    cases h : feedByte b s with
    | next t =>
      obtain ⟨_, h1, _, h2⟩ := feedByte_keeps h
      refine congrArg Host.Outcome.next ?_
      rw [← h1, ← h2]
      unfold afterByte
      cases k <;> rfl
    | fault f => rfl
    | refused r => rfl

/-! ## The whole loop -/

/-- The loop of R264 run to its end, with the number of bytes consumed: what the steps of a composite come to. -/
def feedBytes : List Byte → State → Host.Outcome (State × Nat) Fault Refusal
  | [], s => .next (s, 0)
  | b :: bs, s =>
    match feedByte b s with
    | .next t =>
      if t.state = .error then .next (t, 1)
      else match feedBytes bs t with
        | .next (u, n) => .next (u, n + 1)
        | .fault f => .fault f
        | .refused r => .refused r
    | .fault f => .fault f
    | .refused r => .refused r

@[simp] theorem feedBytes_nil (s : State) : feedBytes [] s = .next (s, 0) := rfl

/-- A byte that ends in `Error` ends the loop (R264). -/
theorem feedBytes_cons_error {b : Byte} {bs : List Byte} {s t : State} (h : feedByte b s = .next t)
    (he : t.state = .error) : feedBytes (b :: bs) s = .next (t, 1) := by
  simp [feedBytes, h, he]

/-- A byte that does not end in `Error` is followed by the rest. -/
theorem feedBytes_cons {b : Byte} {bs : List Byte} {s t : State} (h : feedByte b s = .next t)
    (he : t.state ≠ .error) : feedBytes (b :: bs) s =
      match feedBytes bs t with
      | .next (u, n) => .next (u, n + 1)
      | .fault f => .fault f
      | .refused r => .refused r := by
  simp only [feedBytes, h, if_neg he]

/-- What one FEED keeps, the byte loop keeps: the induction over the bytes, once. -/
theorem feedBytes_preserves (P : State → Prop) (h1 : ∀ b s t, P s → feedByte b s = .next t → P t) :
    ∀ bs s t n, P s → feedBytes bs s = .next (t, n) → P t := by
  intro bs
  induction bs with
  | nil => intro s t n hs h; cases h; exact hs
  | cons b bs ih =>
    intro s t n hs h
    cases hb : feedByte b s with
    | next u =>
      have hu := h1 b s u hs hb
      by_cases he : u.state = .error
      · rw [feedBytes_cons_error hb he] at h
        cases h
        exact hu
      · rw [feedBytes_cons hb he] at h
        cases hr : feedBytes bs u with
        | next p =>
          obtain ⟨v, m⟩ := p
          rw [hr] at h
          cases h
          exact ih u t m hu hr
        | fault f => rw [hr] at h; cases h
        | refused r => rw [hr] at h; cases h
    | fault f => simp [feedBytes, hb] at h
    | refused r => simp [feedBytes, hb] at h

end Sys2Proof.Machine
end

