-- ==== Sys2Proof/Laws/PerInstr.lean ====
section
/-! SUPPORT. Statements about every instruction, one lemma per constructor. `WireLength`: an encoded frame has the length
30_encoding.md R120 gives its format, counted from the address byte. -/

namespace Sys2Proof.Laws.WireLength

/-- The bytes of a frame kind on the wire, as far as the block consumes them (R120); `none` for what is no frame. -/
def frameLength : Instr → Option Nat

  | .rsp01 _ bc _ _ => some (5 + bc.toNat)
  | .rsp02 _ bc _ _ => some (5 + bc.toNat)
  | .rsp03 _ bc _ _ => some (5 + bc.toNat)
  | .rsp04 _ bc _ _ => some (5 + bc.toNat)
  | .rsp05 _ _ _ _ _ => some 8
  | .rsp06 _ _ _ _ _ => some 8
  | .rsp0F _ _ _ _ => some 8
  | .rsp10 _ _ _ _ => some 8
  | .rspExc _ _ _ => some 3
  | .rspIllegal _ _ => some 2
  | .req01 _ _ _ _ => some 8
  | .req02 _ _ _ _ => some 8
  | .req03 _ _ _ _ => some 8
  | .req04 _ _ _ _ => some 8
  | .req05 _ _ _ _ _ => some 8
  | .req06 _ _ _ _ _ => some 8
  | .req0F _ _ _ bc _ _ => some (9 + bc.toNat)
  | .req10 _ _ _ bc _ _ => some (9 + bc.toNat)
  | .reqExc _ _ _ => some 3
  | .reqIllegal _ _ => some 2
  | .nop => none
  | .feed _ => none
  | .reset => none
  | .feedn _ => none
  | .crcReset => none
  | .crcFold _ => none
  | .crcValue => none
  | .bufAlloc _ => none
  | .bufFree => none
  | .bufRead _ => none
  | .bufWrite _ => none
  | .dispatchFor _ _ => none
  | .advance => none
  | .hSlaveAddress _ => none
  | .hFunctionCode _ => none
  | .hAddress _ => none
  | .hQuantity _ => none
  | .hByteCount _ => none
  | .hData _ => none
  | .hModbusException _ => none
  | .hFirstCRC _ => none
  | .hSecondCRC _ => none

/-- A well-formed instruction that encodes to a frame encodes to `frameLength` bytes. -/
def Statement (i : Instr) : Prop :=
  ∀ cfg bytes, WellFormed i = true → encode cfg i = some (.frame bytes) → frameLength i = some bytes.length

/-- What `encode` answers for a frame kind is the frame's bytes. -/
theorem frameFor_eq {cfg : Config} {role : Role} {bs bytes : List Byte}
    (h : frameFor cfg role bs = some (.frame bytes)) : bytes = bs := by
  unfold frameFor at h
  split at h
  · cases h; rfl
  · cases h

theorem rsp01 (addr bc : Byte) (data : List Byte) (crc : Word) : Statement (.rsp01 addr bc data crc) := by
  intro cfg bytes hw h
  simp only [WellFormed, beq_iff_eq] at hw
  simp [frameFor_eq h, frameLength, wireBC, hw]; omega

theorem rsp02 (addr bc : Byte) (data : List Byte) (crc : Word) : Statement (.rsp02 addr bc data crc) := by
  intro cfg bytes hw h
  simp only [WellFormed, beq_iff_eq] at hw
  simp [frameFor_eq h, frameLength, wireBC, hw]; omega

theorem rsp03 (addr bc : Byte) (data : List Byte) (crc : Word) : Statement (.rsp03 addr bc data crc) := by
  intro cfg bytes hw h
  simp only [WellFormed, beq_iff_eq] at hw
  simp [frameFor_eq h, frameLength, wireBC, hw]; omega

theorem rsp04 (addr bc : Byte) (data : List Byte) (crc : Word) : Statement (.rsp04 addr bc data crc) := by
  intro cfg bytes hw h
  simp only [WellFormed, beq_iff_eq] at hw
  simp [frameFor_eq h, frameLength, wireBC, hw]; omega

theorem rsp05 (addr : Byte) (reg : Word) (val1 val2 : Byte) (crc : Word) : Statement (.rsp05 addr reg val1 val2 crc) := by
  intro cfg bytes _ h
  rw [frameFor_eq h]
  rfl

theorem rsp06 (addr : Byte) (reg : Word) (val1 val2 : Byte) (crc : Word) : Statement (.rsp06 addr reg val1 val2 crc) := by
  intro cfg bytes _ h
  rw [frameFor_eq h]
  rfl

theorem rsp0F (addr : Byte) (start qty crc : Word) : Statement (.rsp0F addr start qty crc) := by
  intro cfg bytes _ h
  rw [frameFor_eq h]
  rfl

theorem rsp10 (addr : Byte) (start qty crc : Word) : Statement (.rsp10 addr start qty crc) := by
  intro cfg bytes _ h
  rw [frameFor_eq h]
  rfl

theorem rspExc (addr fc code : Byte) : Statement (.rspExc addr fc code) := by
  intro cfg bytes _ h
  rw [frameFor_eq h]
  rfl

theorem rspIllegal (addr fc : Byte) : Statement (.rspIllegal addr fc) := by
  intro cfg bytes _ h
  rw [frameFor_eq h]
  rfl

theorem req01 (addr : Byte) (start qty crc : Word) : Statement (.req01 addr start qty crc) := by
  intro cfg bytes _ h
  rw [frameFor_eq h]
  rfl

theorem req02 (addr : Byte) (start qty crc : Word) : Statement (.req02 addr start qty crc) := by
  intro cfg bytes _ h
  rw [frameFor_eq h]
  rfl

theorem req03 (addr : Byte) (start qty crc : Word) : Statement (.req03 addr start qty crc) := by
  intro cfg bytes _ h
  rw [frameFor_eq h]
  rfl

theorem req04 (addr : Byte) (start qty crc : Word) : Statement (.req04 addr start qty crc) := by
  intro cfg bytes _ h
  rw [frameFor_eq h]
  rfl

theorem req05 (addr : Byte) (reg : Word) (val1 val2 : Byte) (crc : Word) : Statement (.req05 addr reg val1 val2 crc) := by
  intro cfg bytes _ h
  rw [frameFor_eq h]
  rfl

theorem req06 (addr : Byte) (reg : Word) (val1 val2 : Byte) (crc : Word) : Statement (.req06 addr reg val1 val2 crc) := by
  intro cfg bytes _ h
  rw [frameFor_eq h]
  rfl

theorem req0F (addr : Byte) (start qty : Word) (bc : Byte) (data : List Byte) (crc : Word) : Statement (.req0F addr start qty bc data crc) := by
  intro cfg bytes hw h
  simp only [WellFormed, beq_iff_eq] at hw
  simp [frameFor_eq h, frameLength, wireAQBD, hw]; omega

theorem req10 (addr : Byte) (start qty : Word) (bc : Byte) (data : List Byte) (crc : Word) : Statement (.req10 addr start qty bc data crc) := by
  intro cfg bytes hw h
  simp only [WellFormed, beq_iff_eq] at hw
  simp [frameFor_eq h, frameLength, wireAQBD, hw]; omega

theorem reqExc (addr fc code : Byte) : Statement (.reqExc addr fc code) := by
  intro cfg bytes _ h
  rw [frameFor_eq h]
  rfl

theorem reqIllegal (addr fc : Byte) : Statement (.reqIllegal addr fc) := by
  intro cfg bytes _ h
  rw [frameFor_eq h]
  rfl

theorem nop : Statement (.nop) := by
  intro cfg bytes _ h
  cases h

theorem feed (b : Byte) : Statement (.feed b) := by
  intro cfg bytes _ h
  cases h

theorem reset : Statement (.reset) := by
  intro cfg bytes _ h
  cases h

theorem feedn (bs : List Byte) : Statement (.feedn bs) := by
  intro cfg bytes _ h
  cases h

theorem crcReset : Statement (.crcReset) := by
  intro cfg bytes _ h
  cases h

theorem crcFold (b : Byte) : Statement (.crcFold b) := by
  intro cfg bytes _ h
  cases h

theorem crcValue : Statement (.crcValue) := by
  intro cfg bytes _ h
  cases h

theorem bufAlloc (size : Byte) : Statement (.bufAlloc size) := by
  intro cfg bytes _ h
  cases h

theorem bufFree : Statement (.bufFree) := by
  intro cfg bytes _ h
  cases h

theorem bufRead (k : Nat) : Statement (.bufRead k) := by
  intro cfg bytes _ h
  cases h

theorem bufWrite (v : Byte) : Statement (.bufWrite v) := by
  intro cfg bytes _ h
  cases h

theorem dispatchFor (role : Role) (fc : Byte) : Statement (.dispatchFor role fc) := by
  intro cfg bytes _ h
  cases h

theorem advance : Statement (.advance) := by
  intro cfg bytes _ h
  cases h

theorem hSlaveAddress (b : Byte) : Statement (.hSlaveAddress b) := by
  intro cfg bytes _ h
  cases h

theorem hFunctionCode (b : Byte) : Statement (.hFunctionCode b) := by
  intro cfg bytes _ h
  cases h

theorem hAddress (b : Byte) : Statement (.hAddress b) := by
  intro cfg bytes _ h
  cases h

theorem hQuantity (b : Byte) : Statement (.hQuantity b) := by
  intro cfg bytes _ h
  cases h

theorem hByteCount (b : Byte) : Statement (.hByteCount b) := by
  intro cfg bytes _ h
  cases h

theorem hData (b : Byte) : Statement (.hData b) := by
  intro cfg bytes _ h
  cases h

theorem hModbusException (b : Byte) : Statement (.hModbusException b) := by
  intro cfg bytes _ h
  cases h

theorem hFirstCRC (b : Byte) : Statement (.hFirstCRC b) := by
  intro cfg bytes _ h
  cases h

theorem hSecondCRC (b : Byte) : Statement (.hSecondCRC b) := by
  intro cfg bytes _ h
  cases h

end Sys2Proof.Laws.WireLength
end

