-- ==== Sys2Proof/Laws/Run.lean ====
section
/-! SUPPORT. Steps of a composite: what the loop of R264 comes to is where its steps lead. -/

namespace Sys2Proof.Machine

/-- In the middle of a composite a step goes on with it. -/
theorem step_of_delivery {s : State} {d : Delivery} (h : s.delivery = some d) : step s = goOn d s := by
  simp [step, h]

/-- Otherwise it takes the script's head. -/
theorem step_of_item {s : State} {item : FetchItem} {rest : List FetchItem} {i : Instr} (hd : s.delivery = none)
    (h : s.script = item :: rest) (hi : decode s.cfg item = .ok i) : step s = exec i { s with script := rest } := by
  simp [step, hd, h, hi]

/-- Everything a step that goes well can be: one more pass of the composite in progress, idleness, or one instruction. -/
theorem step_cases {s t : State} (h : step s = .next t) :
    (∃ d, s.delivery = some d ∧ configLegal s.cfg = true ∧ deliver d.kind d.consumed d.rest s = .next t) ∨
    (s.delivery = none ∧ s.script = [] ∧ t = s) ∨
    ∃ item rest i, s.delivery = none ∧ s.script = item :: rest ∧ decode s.cfg item = .ok i ∧
      exec i { s with script := rest } = .next t := by
  obtain hd | ⟨d, hd⟩ := Option.eq_none_or_eq_some s.delivery
  · cases hs : s.script with
    | nil =>
      simp only [step, hd, hs] at h
      cases h
      exact .inr (.inl ⟨hd, rfl, rfl⟩)
    | cons item rest =>
      cases hi : decode s.cfg item with
      | ok i =>
        rw [step_of_item hd hs hi] at h
        exact .inr (.inr ⟨item, rest, i, hd, rfl, hi, h⟩)
      | error e => simp [step, hd, hs, hi] at h
  · rw [step_of_delivery hd] at h
    exact .inl ⟨d, hd, withLegalConfig_next h⟩

/-- The composite ends in one state, after one number of steps. -/
theorem FinishesIn.unique {t u v : State} {j k : Nat} (h : FinishesIn j t u) (h' : FinishesIn k t v) : j = k ∧ u = v := by
  induction j generalizing t k with
  | zero =>
    cases k with
    | zero => exact ⟨rfl, h.2.symm.trans h'.2⟩
    | succ k => exact absurd h.1 h'.1
  | succ j ih =>
    cases k with
    | zero => exact absurd h'.1 h.1
    | succ k =>
      obtain ⟨_, w, hw, h⟩ := h
      obtain ⟨_, w', hw', h'⟩ := h'
      rw [hw] at hw'
      cases hw'
      exact ⟨congrArg _ (ih h h').1, (ih h h').2⟩

/-- A composite that finishes does not fault. -/
theorem FinishesIn.not_faults {t u : State} {f : Fault} {j k : Nat} (h : FinishesIn j t u) : ¬FaultsIn k t f := by
  induction j generalizing t k with
  | zero =>
    cases k with
    | zero => exact id
    | succ k => exact fun h' => h'.1 h.1
  | succ j ih =>
    cases k with
    | zero => exact id
    | succ k =>
      rintro ⟨_, ⟨hf, _⟩ | ⟨w, hw, hf⟩⟩ <;> obtain ⟨_, v, hv, h⟩ := h
      · rw [hv] at hf; cases hf
      · rw [hv] at hw; cases hw; exact ih h hf

/-- The step after a byte that did not end the composite is the next pass. -/
theorem step_afterByte {k : DeliveryKind} {n : Nat} {bs : List Byte} {s : State} (hl : configLegal s.cfg = true)
    (he : s.state ≠ .error) (hb : bs ≠ []) :
    (afterByte k n bs s).delivery ≠ none ∧ step (afterByte k n bs s) = deliver k n bs s := by
  rw [afterByte_of_more he hb]
  refine ⟨nofun, ?_⟩
  rw [step_of_delivery rfl]
  exact (withLegalConfig_of_legal hl).trans (deliver_forgets k n bs s _)

/-- Where the loop ends, the steps end, one for each byte consumed. -/
theorem deliver_finishes {k : DeliveryKind} {bs : List Byte} : ∀ {n : Nat} {s u : State} {m : Nat},
    configLegal s.cfg = true → bs ≠ [] → feedBytes bs s = .next (u, m) →
    ∃ j t, m = j + 1 ∧ deliver k n bs s = .next t ∧ FinishesIn j t (endDelivery k (n + m) u) := by
  induction bs with
  | nil => intro _ _ _ _ _ hb; exact absurd rfl hb
  | cons b bs ih =>
    intro n s u m hl _ h
    cases hf : feedByte b s with
    | fault f => simp [feedBytes, hf] at h
    | refused r => exact absurd hf (feedByte_ne_refused b s r)
    | next v =>
      by_cases he : v.state = .error
      · rw [feedBytes_cons_error hf he] at h
        cases h
        exact ⟨0, _, rfl, deliver_cons hf, by simp [FinishesIn, afterByte_of_end (.inl he)]⟩
      · rw [feedBytes_cons hf he] at h
        by_cases hb : bs = []
        · subst hb
          cases h
          exact ⟨0, _, rfl, deliver_cons hf, by simp [FinishesIn, afterByte_of_end (.inr rfl)]⟩
        · cases hr : feedBytes bs v with
          | fault f => rw [hr] at h; cases h
          | refused r => rw [hr] at h; cases h
          | next p =>
            obtain ⟨w, m'⟩ := p
            rw [hr] at h
            cases h
            have hv : configLegal v.cfg = true := by rw [(feedByte_keeps hf).1]; exact hl
            obtain ⟨j, t, rfl, ht, hj⟩ := ih (n := n + 1) hv hb hr
            obtain ⟨hd, hs⟩ := step_afterByte (k := k) (n := n + 1) hv he hb
            refine ⟨j + 1, _, rfl, deliver_cons hf, hd, t, hs.trans ht, ?_⟩
            rwa [show n + (j + 1 + 1) = n + 1 + (j + 1) by omega]

/-- Where the loop faults, a step of the composite does, and the states before it are states of the run. -/
theorem deliver_faults {k : DeliveryKind} {bs : List Byte} {f : Fault} : ∀ {n : Nat} {s : State},
    configLegal s.cfg = true → feedBytes bs s = .fault f →
    deliver k n bs s = .fault f ∨ ∃ j t, deliver k n bs s = .next t ∧ FaultsIn j t f := by
  induction bs with
  | nil => intro _ _ _ h; cases h
  | cons b bs ih =>
    intro n s hl h
    cases hf : feedByte b s with
    | fault g => simp only [feedBytes, hf] at h; cases h; exact .inl (by simp [deliver, hf])
    | refused r => exact absurd hf (feedByte_ne_refused b s r)
    | next v =>
      right
      by_cases he : v.state = .error
      · rw [feedBytes_cons_error hf he] at h; cases h
      · rw [feedBytes_cons hf he] at h
        by_cases hb : bs = []
        · subst hb; cases h
        · have hr : feedBytes bs v = .fault f := by
            cases hr : feedBytes bs v with
            | fault g => rw [hr] at h; exact h
            | refused r => rw [hr] at h; cases h
            | next p => rw [hr] at h; cases h
          have hv : configLegal v.cfg = true := by rw [(feedByte_keeps hf).1]; exact hl
          obtain ⟨hd, hs⟩ := step_afterByte (k := k) (n := n + 1) hv he hb
          rcases ih (n := n + 1) hv hr with h0 | ⟨j, t, ht, hj⟩
          · exact ⟨1, _, deliver_cons hf, hd, .inl ⟨hs.trans h0, rfl⟩⟩
          · exact ⟨j + 1, _, deliver_cons hf, hd, .inr ⟨t, hs.trans ht, hj⟩⟩

/-- The loop never refuses. -/
theorem feedBytes_ne_refused (bs : List Byte) : ∀ (s : State) (r : Refusal), feedBytes bs s ≠ .refused r := by
  induction bs with
  | nil => intro _ _ h; cases h
  | cons b bs ih =>
    intro s r h
    cases hf : feedByte b s with
    | fault f => simp [feedBytes, hf] at h
    | refused r => exact feedByte_ne_refused b s r hf
    | next v =>
      by_cases he : v.state = .error
      · rw [feedBytes_cons_error hf he] at h; cases h
      · rw [feedBytes_cons hf he] at h
        cases hr : feedBytes bs v with
        | fault f => rw [hr] at h; cases h
        | refused r => exact ih v r hr
        | next p => rw [hr] at h; cases h

end Sys2Proof.Machine
end

