-- ==== Sys2Proof/Tests/Slice0.lean ====
section
/-! SUPPORT. Tests and witnesses. Every expected value is the spec's (95_test_vectors.md and the rules' own examples); a
vector's number stands before the test that uses it. -/

namespace Sys2Proof.Tests

open Sys2Proof.Machine

section

set_option maxRecDepth 20000

/-! ## Helpers -/

/-- `CFG0` of 95_test_vectors.md section 0. -/
def cfg0 : Config where
  role := .response
  mySlaveAddress := 1
  endianness := .big
  swapRegisters := false
  registerSize := 2
  byteCountLimit := 96

/-- `CFG0R`. -/
def cfg0R : Config := { cfg0 with role := .request }

/-- `CFG0` with swap on and the given register size. -/
def cfgSwap (n : Word) : Config := { cfg0 with swapRegisters := true, registerSize := n }

/-- `CFG0` with `endianness = Little`. -/
def cfgLittle : Config := { cfg0 with endianness := .little }

/-- `CFG0R` with `endianness = Little`. -/
def cfgLittleR : Config := { cfg0R with endianness := .little }

/-- A next state that satisfies `f`. -/
def ends (r : Result) (f : State → Bool) : Bool :=
  match r with
  | .next t => f t
  | .fault _ => false
  | .refused _ => false

/-- At most `k` further steps of the composite a result has begun. -/
def further : Nat → Result → Result
  | 0, r => r
  | k + 1, r => andThen r fun t => if t.delivery = none then .next t else further k (step t)

/-- An instruction of at most 20 steps, run to its end. -/
def ran (i : Instr) (s : State) : Result := further 20 (exec i s)

/-- The fault a result ends in. -/
def faultOf (r : Result) : Option Fault :=
  match r with
  | .fault f => some f
  | _ => none

/-- The refusal a result ends in. -/
def refusalOf (r : Result) : Option Refusal :=
  match r with
  | .refused x => some x
  | _ => none

/-- The block after some bytes of a frame, from reset in a configuration. -/
def fed (c : Config) (bs : List Byte) : State :=
  match feedBytes bs (State.powerOn c) with
  | .next (t, _) => t
  | _ => State.powerOn c

/-- The accessor values a vector lists. -/
def shows (t : State) (st : ParserState) (err fc : Byte) (addr qty : Word) (bc : Byte) (crc : Word)
    (data : List (Option Byte)) (pi : Nat) : Bool :=
  t.state == st && t.error == err && t.functionCode == fc && t.address == addr && t.quantity == qty &&
    t.byteCount == bc && t.crc == crc && accData t == data && t.phaseIdx == pi && t.delivery == none

/-- The item a decoder reads as no instruction. -/
def rejects (c : Config) (item : FetchItem) : Option DecodeError :=
  match decode c item with
  | .ok _ => none
  | .error e => some e

/-! ## WellFormed: one ill-formed term for each check -/

theorem test_illformed_rsp01 : WellFormed (.rsp01 1 2 [0xCD] 0xAC2C) = false := by decide
theorem test_illformed_rsp02 : WellFormed (.rsp02 1 2 [0xCD] 0xAC2C) = false := by decide
theorem test_illformed_rsp03 : WellFormed (.rsp03 1 2 [0xCD] 0xAC2C) = false := by decide
theorem test_illformed_rsp04 : WellFormed (.rsp04 1 2 [0xCD] 0xAC2C) = false := by decide
theorem test_illformed_req0F : WellFormed (.req0F 1 0x13 0xA 2 [0xCD] 0xCB72) = false := by decide
theorem test_illformed_req10 : WellFormed (.req10 1 0x13 0xA 2 [0xCD] 0xCB72) = false := by decide
theorem test_illformed_exc : WellFormed (.rspExc 1 0x7F 2) = false ∧ WellFormed (.reqExc 1 0x03 2) = false := by decide
theorem test_illformed_illegal : WellFormed (.rspIllegal 1 0x80) = false ∧ WellFormed (.rspIllegal 1 0x10) = false ∧
    WellFormed (.reqIllegal 1 0xFF) = false ∧ WellFormed (.reqIllegal 1 0x01) = false := by decide
theorem test_illformed_alloc : WellFormed (.bufAlloc 0) = false := by decide
theorem test_illformed_dispatch : WellFormed (.dispatchFor .request 0x07) = false := by decide

/-! ## Decoding: a word of every instruction that has an encoding, written out from its layout -/

theorem test_decode_rsp01 : decode cfg0 (.frame [0x01, 0x01, 0x02, 0xCD, 0x01, 0x2C, 0xAC]) =
    .ok (.rsp01 1 2 [0xCD, 0x01] 0xAC2C) := by decide
theorem test_decode_rsp02 : decode cfg0 (.frame [0x01, 0x02, 0x01, 0xAC, 0xA1, 0xF5]) =
    .ok (.rsp02 1 1 [0xAC] 0xF5A1) := by decide
theorem test_decode_rsp03 : decode cfg0 (.frame [0x01, 0x03, 0x04, 0x00, 0x06, 0x00, 0x05, 0xDA, 0x31]) =
    .ok (.rsp03 1 4 [0x00, 0x06, 0x00, 0x05] 0x31DA) := by decide
theorem test_decode_rsp04 : decode cfg0 (.frame [0x01, 0x04, 0x02, 0x00, 0x0A, 0x39, 0x37]) =
    .ok (.rsp04 1 2 [0x00, 0x0A] 0x3739) := by decide
theorem test_decode_rsp05 : decode cfg0 (.frame [0x01, 0x05, 0x00, 0xAC, 0xFF, 0x00, 0x4C, 0x1B]) =
    .ok (.rsp05 1 0x00AC 0xFF 0x00 0x1B4C) := by decide
theorem test_decode_rsp06 : decode cfg0 (.frame [0x01, 0x06, 0x00, 0x01, 0x00, 0x03, 0x98, 0x0B]) =
    .ok (.rsp06 1 0x0001 0x00 0x03 0x0B98) := by decide
theorem test_decode_rsp0F : decode cfg0 (.frame [0x01, 0x0F, 0x00, 0x13, 0x00, 0x0A, 0x24, 0x09]) =
    .ok (.rsp0F 1 0x0013 0x000A 0x0924) := by decide
theorem test_decode_rsp10 : decode cfg0 (.frame [0x01, 0x10, 0x00, 0x01, 0x00, 0x02, 0x10, 0x08]) =
    .ok (.rsp10 1 0x0001 0x0002 0x0810) := by decide
theorem test_decode_req01 : decode cfg0R (.frame [0x01, 0x01, 0x00, 0x13, 0x00, 0x25, 0x0C, 0x14]) =
    .ok (.req01 1 0x0013 0x0025 0x140C) := by decide
theorem test_decode_req02 : decode cfg0R (.frame [0x01, 0x02, 0x00, 0xC4, 0x00, 0x16, 0xB8, 0x39]) =
    .ok (.req02 1 0x00C4 0x0016 0x39B8) := by decide
theorem test_decode_req03 : decode cfg0R (.frame [0x01, 0x03, 0x00, 0x6B, 0x00, 0x03, 0x74, 0x17]) =
    .ok (.req03 1 0x006B 0x0003 0x1774) := by decide
theorem test_decode_req04 : decode cfg0R (.frame [0x01, 0x04, 0x01, 0x31, 0x00, 0x1E, 0x20, 0x31]) =
    .ok (.req04 1 0x0131 0x001E 0x3120) := by decide
theorem test_decode_req05 : decode cfg0R (.frame [0x01, 0x05, 0x00, 0xAC, 0xFF, 0x00, 0x4C, 0x1B]) =
    .ok (.req05 1 0x00AC 0xFF 0x00 0x1B4C) := by decide
theorem test_decode_req06 : decode cfg0R (.frame [0x01, 0x06, 0x00, 0x01, 0x00, 0x03, 0x98, 0x0B]) =
    .ok (.req06 1 0x0001 0x00 0x03 0x0B98) := by decide
theorem test_decode_req0F : decode cfg0R (.frame [0x01, 0x0F, 0x00, 0x13, 0x00, 0x0A, 0x02, 0xCD, 0x01, 0x72, 0xCB]) =
    .ok (.req0F 1 0x0013 0x000A 2 [0xCD, 0x01] 0xCB72) := by decide
theorem test_decode_req10 : decode cfg0R (.frame [0x01, 0x10, 0x00, 0x01, 0x00, 0x02, 0x04, 0x00, 0x0A, 0x01, 0x02, 0x92, 0x30]) =
    .ok (.req10 1 0x0001 0x0002 4 [0x00, 0x0A, 0x01, 0x02] 0x3092) := by decide
theorem test_decode_rspExc : decode cfg0 (.frame [0x01, 0x80, 0x04]) =
    .ok (.rspExc 1 0x80 4) := by decide
theorem test_decode_rspIllegal : decode cfg0 (.frame [0x01, 0x07]) =
    .ok (.rspIllegal 1 0x07) := by decide
theorem test_decode_reqExc : decode cfg0R (.frame [0x01, 0x82, 0x02]) =
    .ok (.reqExc 1 0x82 2) := by decide
theorem test_decode_reqIllegal : decode cfg0R (.frame [0x01, 0x11]) =
    .ok (.reqIllegal 1 0x11) := by decide
theorem test_decode_little_req04 : decode cfgLittleR (.frame [0x01, 0x04, 0x31, 0x01, 0x1E, 0x00, 0x96, 0xA6]) =
    .ok (.req04 1 0x0131 0x001E 0x96A6) := by decide
theorem test_decode_little_rsp03 : decode cfgLittle (.frame [0x01, 0x03, 0x04, 0x00, 0x06, 0x00, 0x05, 0x31, 0xDA]) =
    .ok (.rsp03 1 4 [0x00, 0x06, 0x00, 0x05] 0x31DA) := by decide
theorem test_decode_little_rsp06 : decode cfgLittle (.frame [0x01, 0x06, 0x01, 0x00, 0x03, 0x00, 0xC6, 0x88]) =
    .ok (.rsp06 1 0x0001 0x03 0x00 0xC688) := by decide
theorem test_decode_little_req10 : decode cfgLittleR (.frame [0x01, 0x10, 0x01, 0x00, 0x02, 0x00, 0x04, 0x00, 0x0A, 0x01, 0x02, 0x4E, 0x7C]) =
    .ok (.req10 1 0x0001 0x0002 4 [0x00, 0x0A, 0x01, 0x02] 0x4E7C) := by decide
theorem test_decode_port : decode cfg0 (.port 0 0xFF) = .ok .nop ∧ decode cfg0 (.port 1 0xFF) = .ok (.feed 0xFF) ∧
    decode cfg0 (.port 2 0x00) = .ok .reset := by decide
theorem test_decode_bulk : decode cfg0 (.bulk [0x01, 0x07]) = .ok (.feedn [0x01, 0x07]) := by decide
theorem test_decode_rejects_unassigned : rejects cfg0 (.port 3 0) = some .unassignedCommand := by decide
theorem test_decode_rejects_short : rejects cfg0 (.frame [0x01, 0x03, 0x04, 0x00, 0x06, 0x00, 0x05, 0xDA]) =
    some .truncatedFrame := by decide
theorem test_decode_rejects_long : rejects cfg0 (.frame [0x01, 0x82, 0x02, 0xC1]) = some .trailingBytes := by decide
/-- The payload is not bounded by the configured limit when a frame is read: 97 bytes, limit 96 (R101, R201). -/
theorem test_decode_over_limit : rejects cfg0 (.frame (0x01 :: 0x03 :: 0x61 :: List.replicate 99 0)) = none := by decide
theorem test_operations_have_no_encoding : encode cfg0 .crcReset = none ∧ encode cfg0 .advance = none ∧
    encode cfg0 (.bufRead 0) = none ∧ encode cfg0 (.hData 0) = none := by decide
/-- A frame kind has no encoding for a block of the other role (R116). -/
theorem test_encode_needs_role : encode cfg0R (.rsp0F 1 0x0013 0x000A 0x0924) = none ∧
    encode cfg0 (.req01 1 0x0013 0x0025 0x140C) = none := by decide

/-! ## Opcode-table words (log entry 4) -/

theorem test_table_commands : decodeTableWord 8 0 = some .nop ∧ decodeTableWord 16 0x0001 = some (.feed 0) ∧
    decodeTableWord 16 0xA501 = some (.feed 0xA5) ∧ decodeTableWord 16 0x0002 = some .reset ∧
    decodeTableWord 16 0x0003 = none := by decide
theorem test_table_frames : decodeTableWord 8 0x03 = some (.rsp03 0 0 [] 0) ∧
    decodeTableWord 8 0x05 = some (.rsp05 0 0 0 0 0) ∧ decodeTableWord 8 0x10 = some (.rsp10 0 0 0 0) ∧
    decodeTableWord 8 0x80 = some (.rspExc 0 0x80 0) ∧ decodeTableWord 8 0x07 = some (.rspIllegal 0 0x07) := by decide
/-- The next step begins the placed instruction, and the exception frame ends in `Error` with code 0. -/
theorem test_fetch_word : ends (step (State.reset.withFetchWord 8 0x80)) (fun t => t.state == .functionCode) = true ∧
    ends (further 2 (step (State.reset.withFetchWord 8 0x80))) (fun t => shows t .error 0 0 0 0 0 0x40BF [] 0) = true := by
  decide

/-! ## One frame of every kind (section 6 of the vectors) -/

/-- V60. -/
theorem test_exec_rsp01 : ends (ran (.rsp01 1 2 [0xCD, 0x01] 0xAC2C) (State.powerOn cfg0))
    (fun t => shows t .complete 0 0x01 0 0 2 0xAC2C [some 0xCD, some 0x01] 2 && t.events == [.onComplete]) = true := by decide
/-- V61. -/
theorem test_exec_rsp02 : ends (ran (.rsp02 1 1 [0xAC] 0xF5A1) (State.powerOn cfg0))
    (fun t => shows t .complete 0 0x02 0 0 1 0xF5A1 [some 0xAC] 2 && t.events == [.onComplete]) = true := by decide
/-- V62. -/
theorem test_exec_rsp03 : ends (ran (.rsp03 1 4 [0x00, 0x06, 0x00, 0x05] 0x31DA) (State.powerOn cfg0))
    (fun t => shows t .complete 0 0x03 0 0 4 0x31DA [some 0x00, some 0x06, some 0x00, some 0x05] 2 && t.events == [.onComplete]) = true := by decide
/-- V63. -/
theorem test_exec_rsp04 : ends (ran (.rsp04 1 2 [0x00, 0x0A] 0x3739) (State.powerOn cfg0))
    (fun t => shows t .complete 0 0x04 0 0 2 0x3739 [some 0x00, some 0x0A] 2 && t.events == [.onComplete]) = true := by decide
/-- V64. -/
theorem test_exec_rsp05 : ends (ran (.rsp05 1 0x00AC 0xFF 0x00 0x1B4C) (State.powerOn cfg0))
    (fun t => shows t .complete 0 0x05 0x00AC 0 0 0x1B4C [some 0xFF, some 0x00] 3 && t.events == [.onComplete]) = true := by decide
/-- V65. -/
theorem test_exec_rsp06 : ends (ran (.rsp06 1 0x0001 0x00 0x03 0x0B98) (State.powerOn cfg0))
    (fun t => shows t .complete 0 0x06 0x0001 0 0 0x0B98 [some 0x00, some 0x03] 3 && t.events == [.onComplete]) = true := by decide
/-- V66. -/
theorem test_exec_rsp0F : ends (ran (.rsp0F 1 0x0013 0x000A 0x0924) (State.powerOn cfg0))
    (fun t => shows t .complete 0 0x0F 0x0013 0x000A 0 0x0924 [] 4 && t.events == [.onComplete]) = true := by decide
/-- V67. -/
theorem test_exec_rsp10 : ends (ran (.rsp10 1 0x0001 0x0002 0x0810) (State.powerOn cfg0))
    (fun t => shows t .complete 0 0x10 0x0001 0x0002 0 0x0810 [] 4 && t.events == [.onComplete]) = true := by decide
/-- V68. -/
theorem test_exec_req01 : ends (ran (.req01 1 0x0013 0x0025 0x140C) (State.powerOn cfg0R))
    (fun t => shows t .complete 0 0x01 0x0013 0x0025 0 0x140C [] 4 && t.events == [.onComplete]) = true := by decide
/-- V69. -/
theorem test_exec_req02 : ends (ran (.req02 1 0x00C4 0x0016 0x39B8) (State.powerOn cfg0R))
    (fun t => shows t .complete 0 0x02 0x00C4 0x0016 0 0x39B8 [] 4 && t.events == [.onComplete]) = true := by decide
/-- V70. -/
theorem test_exec_req03 : ends (ran (.req03 1 0x006B 0x0003 0x1774) (State.powerOn cfg0R))
    (fun t => shows t .complete 0 0x03 0x006B 0x0003 0 0x1774 [] 4 && t.events == [.onComplete]) = true := by decide
/-- V71. -/
theorem test_exec_req04 : ends (ran (.req04 1 0x0131 0x001E 0x3120) (State.powerOn cfg0R))
    (fun t => shows t .complete 0 0x04 0x0131 0x001E 0 0x3120 [] 4 && t.events == [.onComplete]) = true := by decide
/-- V72. -/
theorem test_exec_req05 : ends (ran (.req05 1 0x00AC 0xFF 0x00 0x1B4C) (State.powerOn cfg0R))
    (fun t => shows t .complete 0 0x05 0x00AC 0 0 0x1B4C [some 0xFF, some 0x00] 3 && t.events == [.onComplete]) = true := by decide
/-- V73. -/
theorem test_exec_req06 : ends (ran (.req06 1 0x0001 0x00 0x03 0x0B98) (State.powerOn cfg0R))
    (fun t => shows t .complete 0 0x06 0x0001 0 0 0x0B98 [some 0x00, some 0x03] 3 && t.events == [.onComplete]) = true := by decide
/-- V74. -/
theorem test_exec_req0F : ends (ran (.req0F 1 0x0013 0x000A 2 [0xCD, 0x01] 0xCB72) (State.powerOn cfg0R))
    (fun t => shows t .complete 0 0x0F 0x0013 0x000A 2 0xCB72 [some 0xCD, some 0x01] 6 && t.events == [.onComplete]) = true := by decide
/-- V75. -/
theorem test_exec_req10 : ends (ran (.req10 1 0x0001 0x0002 4 [0x00, 0x0A, 0x01, 0x02] 0x3092) (State.powerOn cfg0R))
    (fun t => shows t .complete 0 0x10 0x0001 0x0002 4 0x3092 [some 0x00, some 0x0A, some 0x01, some 0x02] 6 && t.events == [.onComplete]) = true := by decide
/-- V76. -/
theorem test_exec_rspExc : ends (ran (.rspExc 1 0x80 4) (State.powerOn cfg0))
    (fun t => shows t .error 4 0 0 0 0 0x807E [] 0 && t.events == [.onError]) = true := by decide
/-- V77. -/
theorem test_exec_rspIllegal : ends (ran (.rspIllegal 1 0x07) (State.powerOn cfg0))
    (fun t => shows t .error 1 0 0 0 0 0x807E [] 0 && t.events == [.onError]) = true := by decide
/-- V78. -/
theorem test_exec_reqExc : ends (ran (.reqExc 1 0x82 2) (State.powerOn cfg0R))
    (fun t => shows t .error 2 0 0 0 0 0x807E [] 0 && t.events == [.onError]) = true := by decide
/-- V79. -/
theorem test_exec_reqIllegal : ends (ran (.reqIllegal 1 0x11) (State.powerOn cfg0R))
    (fun t => shows t .error 1 0 0 0 0 0x807E [] 0 && t.events == [.onError]) = true := by decide
/-- V29: swapped payload. -/
theorem test_exec_req10_swapped : ends (ran (.req10 1 0x0001 0x0002 4 [0x00, 0x0A, 0x01, 0x02] 0x3092)
    (State.powerOn { cfgSwap 2 with role := .request }))
    (fun t => accData t == [some 0x0A, some 0x00, some 0x02, some 0x01]) = true := by decide
/-- V25: the byte of the incomplete register overruns, after five steps that stand. -/
theorem test_exec_rsp03_overrun : ends (further 4 (exec (.rsp03 1 3 [0xAA, 0xBB, 0xCC] 0) (State.powerOn (cfgSwap 2))))
      (fun t => t.state == .data && accData t == [some 0xBB, some 0xAA, none]) = true ∧
    faultOf (further 5 (exec (.rsp03 1 3 [0xAA, 0xBB, 0xCC] 0) (State.powerOn (cfgSwap 2)))) = some .bufferOverrun := by
  decide
/-- V93: a zero quantity. -/
theorem test_exec_rsp10_zero : ends (ran (.rsp10 1 0x0001 0 0) (State.powerOn cfg0))
    (fun t => shows t .error 3 0x10 0x0001 0 0 0xC991 [] 3) = true := by decide
/-- V92: a byte count of zero. -/
theorem test_exec_req0F_zero : ends (ran (.req0F 1 0x0013 0x000A 0 [] 0) (State.powerOn cfg0R))
    (fun t => shows t .error 3 0x0F 0x0013 0x000A 0 0x0924 [] 4) = true := by decide

/-! ## Host commands -/

theorem test_nop : ends (exec .nop (fed cfg0 [0x01])) (fun t => t == fed cfg0 [0x01]) = true := by decide
/-- V41. -/
theorem test_feed_address : ends (exec (.feed 0x01) (State.powerOn cfg0))
    (fun t => t.state == .functionCode && t.slaveAddress == 0x01 && t.crc == 0x807E) = true := by decide
/-- V110: a noise byte after a terminal state leaves the reset state. -/
theorem test_feed_noise_resets : ends (exec (.feed 0xFF) (fed cfg0 [0x01, 0x82, 0x02]))
    (fun t => t == { State.powerOn cfg0 with events := [.onError] }) = true := by decide
/-- V118: RESET in mid-frame. -/
theorem test_reset : ends (exec .reset (fed cfg0R [0x01, 0x10, 0x00, 0x01, 0x00, 0x02, 0x04, 0x00, 0x0A]))
    (fun t => t == State.powerOn cfg0R) = true := by decide
/-- V117: stops after the byte that leaves `Error`. -/
theorem test_feedn_stops : ends (ran (.feedn [0x01, 0x07, 0x01, 0x03]) (State.powerOn cfg0))
    (fun t => t.returned == .count 2 && t.state == .error && t.delivery == none) = true := by decide
/-- V112's two frames, with the noise byte before them. -/
def twoFrames : List Byte :=
  0xFF :: ([0x01, 0x0F, 0x00, 0x13, 0x00, 0x0A, 0x24, 0x09] ++ [0x01, 0x0F, 0x00, 0x13, 0x00, 0x0A, 0x24, 0x09])

/-- V112: one call, two frames. -/
theorem test_feedn_two_frames : ends (ran (.feedn twoFrames) (State.powerOn cfg0))
    (fun t => t.returned == .count 17 && t.events == [.onComplete, .onComplete] && t.delivery == none) = true := by decide
/-- The first frame's fields can be read where its event is (R264, R343), eight bytes still to come. -/
theorem test_feedn_shows_the_first_frame : ends (further 8 (exec (.feedn twoFrames) (State.powerOn cfg0)))
    (fun t => t.state == .complete && t.address == 0x0013 && t.quantity == 0x000A && t.events == [.onComplete] &&
      t.delivery == some { kind := .feedn, rest := twoFrames.drop 9, consumed := 9 }) = true := by decide

/-! ## The CRC unit -/

/-- V10. -/
theorem test_crc_reset : ends (exec .crcReset (fed cfg0 [0x01])) (fun t => t.crc == 0xFFFF) = true := by decide
/-- V11, V12. -/
theorem test_crc_fold_from_ffff : ([0x01, 0x00, 0x11, 0x80, 0xFF] : List Byte).map (crcFoldByte 0xFFFF) =
    [0x807E, 0x40BF, 0x4C7F, 0xE0BE, 0x00FF] := by decide
/-- V17. -/
theorem test_crc_of_nine : crcOfBytes [0x31, 0x32, 0x33, 0x34, 0x35, 0x36, 0x37, 0x38, 0x39] = 0x4B37 := by decide
theorem test_crc_value : ends (exec .crcValue (fed cfg0 [0x01])) (fun t => t.returned == .crc 0x807E) = true := by decide

/-! ## The payload buffer -/

/-- V22: the cursor starts at the last byte of the first register. -/
theorem test_alloc_swap : ends (exec (.bufAlloc 4) (State.powerOn (cfgSwap 4)))
    (fun t => t.bufAlloc && t.dataLen == 4 && t.wptr == 3 && t.rcnt == 4) = true := by decide
theorem test_free : ends (exec .bufFree (fed cfg0 [0x01, 0x03, 0x04, 0x00])) (fun t => !t.bufAlloc && t.dataLen == 0 &&
    accData t == []) = true := by decide
/-- Section 3: reads after the second data byte of V20. -/
theorem test_read : ends (exec (.bufRead 1) (fed cfg0 [0x01, 0x03, 0x04, 0x00, 0x06])) (fun t =>
      t.returned == .byte 0x06) = true ∧
    faultOf (exec (.bufRead 2) (fed cfg0 [0x01, 0x03, 0x04, 0x00, 0x06])) = some .unwrittenRead ∧
    refusalOf (exec (.bufRead 4) (fed cfg0 [0x01, 0x03, 0x04, 0x00, 0x06])) = some .noSuchElement := by decide
/-- V21: the two bytes of the first register. -/
theorem test_write_swap : ends (exec (.bufWrite 0x06) (fed (cfgSwap 2) [0x01, 0x03, 0x04, 0x00])) (fun t =>
    accData t == [some 0x06, some 0x00, none, none] && t.wptr == 3 && t.rcnt == 2) = true := by decide
/-- V26. -/
theorem test_write_overrun : faultOf (exec (.hData 0xAA) (fed (cfgSwap 4) [0x01, 0x03, 0x02])) = some .bufferOverrun := by
  decide

/-! ## Dispatch -/

theorem test_dispatch_for : ends (exec (.dispatchFor .request 0x10) (State.powerOn cfg0)) (fun t => t.returned ==
      .table [.address, .address, .quantity, .quantity, .byteCount, .data]) = true ∧
    refusalOf (exec (.dispatchFor .request 0x07) (State.powerOn cfg0)) = some .noDispatchTable := by decide
/-- V31: after the second address byte. -/
theorem test_advance : ends (exec .advance { fed cfg0 [0x01, 0x06, 0x00] with phaseIdx := 2 }) (fun t =>
    t.state == .firstCRC && t.phaseIdx == 3) = true := by decide

/-! ## The handlers (section 5 of the vectors) -/

/-- V40 (noise), V44 (the largest legal address). -/
theorem test_h_slave_address : ends (exec (.hSlaveAddress 0xFF) (State.powerOn cfg0)) (fun t => t == State.powerOn cfg0) =
      true ∧
    ends (exec (.hSlaveAddress 0xF7) (State.powerOn { cfg0 with mySlaveAddress := 247 }))
      (fun t => t.slaveAddress == 0xF7 && t.crc == 0xC6FE) = true := by decide
/-- V45, V46. -/
theorem test_h_function_code : ends (exec (.hFunctionCode 0x03) (fed cfg0 [0x01])) (fun t => t.state == .byteCount &&
      t.functionCode == 0x03 && t.crc == 0x2140) = true ∧
    ends (exec (.hFunctionCode 0x03) (fed cfg0R [0x01])) (fun t => t.state == .address) = true := by decide
/-- V47, V48. -/
theorem test_h_function_code_other : ends (exec (.hFunctionCode 0x7F) (fed cfg0 [0x01])) (fun t => t.state == .error &&
      t.error == 1 && t.functionCode == 0 && t.crc == 0x807E) = true ∧
    ends (exec (.hFunctionCode 0x80) (fed cfg0 [0x01])) (fun t => t.state == .modbusException && t.functionCode == 0 &&
      t.crc == 0x807E && t.events == []) = true := by decide
/-- V49. -/
theorem test_h_address : ends (exec (.hAddress 0x31) (fed cfg0R [0x01, 0x04, 0x01])) (fun t => t.address == 0x0131 &&
    t.crc == 0x5D80 && t.state == .quantity && t.phaseIdx == 2) = true := by decide
/-- V50. -/
theorem test_h_address_little : ends (exec (.hAddress 0x31) (fed cfgLittleR [0x01, 0x04])) (fun t => t.address == 0x0031 &&
    t.crc == 0x14E3 && t.phaseIdx == 1) = true := by decide
/-- V51. -/
theorem test_h_quantity : ends (exec (.hQuantity 0x1E) (fed cfg0R [0x01, 0x04, 0x01, 0x31, 0x00])) (fun t =>
    t.quantity == 0x001E && t.crc == 0x3120 && t.state == .firstCRC && t.phaseIdx == 4) = true := by decide
/-- V52. -/
theorem test_h_quantity_zero : ends (exec (.hQuantity 0x00) (fed cfg0R [0x01, 0x03, 0x00, 0x6B, 0x00])) (fun t =>
    t.error == 3 && t.quantity == 0 && t.crc == 0x1634 && t.phaseIdx == 3 && t.events == [.onError]) = true := by decide
/-- V1's third byte; V91 (97 is over the limit, and neither recorded nor folded). -/
theorem test_h_byte_count : ends (exec (.hByteCount 0x04) (fed cfg0 [0x01, 0x03])) (fun t => t.state == .data &&
      t.byteCount == 4 && t.dataToReceive == 4 && t.crc == 0x3321) = true ∧
    ends (exec (.hByteCount 0x61) (fed cfg0 [0x01, 0x03])) (fun t => t.error == 3 && t.byteCount == 0 &&
      t.crc == 0x2140) = true := by decide
/-- V1's fourth byte: the allocation. -/
theorem test_h_data_first : ends (exec (.hData 0x00) (fed cfg0 [0x01, 0x03, 0x04])) (fun t => t.bufAlloc &&
    accData t == [some 0x00, none, none, none] && t.dataToReceive == 3 && t.wptr == 1 && t.crc == 0x18F3) = true := by
  decide
/-- V27: the implicit two bytes, swapped. -/
theorem test_h_data_implicit : ends (exec (.hData 0x00) (fed (cfgSwap 2) [0x01, 0x06, 0x00, 0x01])) (fun t =>
    t.dataLen == 2 && accData t == [none, some 0x00] && t.dataToReceive == 1) = true := by decide
/-- V59: any code, known or not. -/
theorem test_h_modbus_exception : ends (exec (.hModbusException 0x00) (fed cfg0 [0x01, 0x83])) (fun t => isError t &&
      t.error == 0 && t.crc == 0x807E) = true ∧
    ends (exec (.hModbusException 0x15) (fed cfg0 [0x01, 0x83])) (fun t => t.error == 21) = true := by decide
/-- V1's and V2's eighth byte. -/
theorem test_h_first_crc : ends (exec (.hFirstCRC 0xDA) (fed cfg0 [0x01, 0x03, 0x04, 0x00, 0x06, 0x00, 0x05]))
      (fun t => t.state == .secondCRC && t.crc == 0x31DA) = true ∧
    ends (exec (.hFirstCRC 0xFF) (fed cfg0 [0x01, 0x03, 0x04, 0x00, 0x06, 0x00, 0x05]))
      (fun t => t.error == 21 && t.crc == 0x31DA) = true := by decide
/-- V1's and V96's ninth byte. -/
theorem test_h_second_crc : ends (exec (.hSecondCRC 0x31) (fed cfg0 [0x01, 0x03, 0x04, 0x00, 0x06, 0x00, 0x05, 0xDA]))
      (fun t => t.state == .complete && t.events == [.onComplete]) = true ∧
    ends (exec (.hSecondCRC 0x30) (fed cfg0 [0x01, 0x03, 0x04, 0x00, 0x06, 0x00, 0x05, 0xDA]))
      (fun t => t.error == 21 && t.events == [.onError]) = true := by decide

/-! ## Witnesses: the hypotheses of each obligation are met -/

/-- Response 0x0F after its body: `01 0F 00 13 00 0A` (V66). -/
def atFirstCrc : State := { State.powerOn cfg0 with
  slaveAddress := 1, functionCode := 0x0F, address := 0x0013, quantity := 0x000A, crc := 0x0924, phaseIdx := 4,
  state := .firstCRC }

/-- V66 after its first CRC byte. -/
def atSecondCrc : State := { atFirstCrc with state := .secondCRC }

/-- V66 after its last byte. -/
def atComplete : State := { atFirstCrc with state := .complete, events := [.onComplete] }

/-- V77 after its last byte. -/
def atError : State := { State.powerOn cfg0 with
  slaveAddress := 1, crc := 0x807E, error := 1, state := .error, events := [.onError] }

/-- After `01` (V41). -/
def atFunctionCode : State := { State.powerOn cfg0 with slaveAddress := 1, crc := 0x807E, state := .functionCode }

/-- After `01 83` (V59). -/
def atException : State := { atFunctionCode with state := .modbusException }

/-- V45. -/
def atByteCount : State := { atFunctionCode with functionCode := 0x03, crc := 0x2140, state := .byteCount }

/-- V93 before its last byte. -/
def atQuantity : State := { atFunctionCode with
  functionCode := 0x10, address := 0x0001, crc := crcOfBytes [0x01, 0x10, 0x00, 0x01, 0x00], phaseIdx := 3,
  state := .quantity }

/-- V65 after its last byte. -/
def atPayload : State := { State.powerOn cfg0 with
  slaveAddress := 1, functionCode := 0x06, address := 0x0001, crc := 0x0B98, phaseIdx := 3, state := .complete,
  bufAlloc := true, dataLen := 2, wptr := 2, buf := [(0, 0x00), (1, 0x03)], events := [.onComplete] }

theorem shape_atFirstCrc : ReachableShape atFirstCrc :=
  ⟨by decide, by decide, by decide, by decide, _, rfl, by decide, by rw [if_neg (by decide)]; exact ⟨rfl, rfl, rfl, rfl, rfl⟩⟩

theorem shape_atSecondCrc : ReachableShape atSecondCrc :=
  ⟨by decide, by decide, by decide, by decide, _, rfl, by decide, by rw [if_neg (by decide)]; exact ⟨rfl, rfl, rfl, rfl, rfl⟩⟩

theorem shape_atComplete : ReachableShape atComplete :=
  ⟨by decide, by decide, by decide, by decide, _, rfl, by decide, by rw [if_neg (by decide)]; exact ⟨rfl, rfl, rfl, rfl, rfl⟩⟩

theorem shape_atError : ReachableShape atError := ⟨by decide, by decide, by decide, .inl ⟨rfl, rfl, rfl, rfl, rfl⟩⟩

theorem shape_atFunctionCode : ReachableShape atFunctionCode :=
  ⟨by decide, by decide, by decide, ⟨rfl, rfl, rfl, rfl, rfl⟩, rfl, ⟨rfl, rfl, rfl, rfl, rfl⟩⟩

theorem shape_atException : ReachableShape atException :=
  ⟨by decide, by decide, by decide, ⟨rfl, rfl, rfl, rfl, rfl⟩, rfl, ⟨rfl, rfl, rfl, rfl, rfl⟩⟩

theorem shape_atByteCount : ReachableShape atByteCount :=
  ⟨by decide, by decide, by decide, ⟨_, rfl, rfl⟩, rfl, rfl, ⟨rfl, rfl, rfl, rfl, rfl⟩⟩

theorem shape_atQuantity : ReachableShape atQuantity :=
  ⟨by decide, by decide, by decide, ⟨_, rfl, rfl⟩, rfl, rfl, ⟨rfl, rfl, rfl, rfl, rfl⟩⟩

theorem holds_atPayload : BufferHolds atPayload 2 where
  allocated := rfl
  size := rfl
  cursor := rfl
  counter := rfl
  inside := by decide
  written := by decide
  onlyThose i h := by
    rcases Nat.lt_or_ge i 2 with hi | hi
    · exact ⟨i, hi, rfl⟩
    · have hn : memRead atPayload.buf i = none := by
        simp [atPayload, memRead, show ¬(0 = i) by omega, show ¬(1 = i) by omega]
      rw [hn] at h
      cases h

theorem shape_atPayload : ReachableShape atPayload :=
  ⟨by decide, by decide, by decide, by decide, _, rfl, by decide, by rw [if_pos (by decide)]; exact holds_atPayload⟩

/-- The legal configurations up to the boundary, and both ways of being illegal. -/
theorem witness_IllegalConfigurationHasNoMeaning : configLegal { cfg0 with mySlaveAddress := 247 } = true ∧
    configLegal (cfgSwap 1) = true ∧ configLegal { cfg0 with mySlaveAddress := 248 } = false ∧
    configLegal (cfgSwap 0) = false := by decide

theorem witness_ResetReturnsToPowerOn : configLegal atException.cfg = true := by decide
theorem witness_NopChangesNothing : configLegal atException.cfg = true := by decide
theorem witness_CrcResetLoadsFFFF : configLegal atException.cfg = true := by decide
theorem witness_CrcFoldIsEightReflectedIterations : configLegal atException.cfg = true := by decide
theorem witness_CrcValueReturnsTheAccumulator : configLegal atException.cfg = true := by decide
theorem witness_ModbusExceptionRaisesItsByte : configLegal atException.cfg = true := by decide
theorem witness_CrcOfOwnBytesIsZero : ∃ s t u, configLegal s.cfg = true ∧ exec (.crcFold (lowByte s.crc)) s = .next t ∧
    exec (.crcFold (highByte s.crc)) t = .next u := ⟨atFirstCrc, _, _, by decide, rfl, rfl⟩
theorem witness_BufAllocAndFreeSetTheBuffer : configLegal atPayload.cfg = true ∧ configLegal (cfgSwap 2) = true := by decide
/-- A cursor at the end; in linear mode inside; in swap mode at a register's last byte and before it. -/
theorem witness_BufWriteStoresAtTheCursor :
    (configLegal atPayload.cfg = true ∧ atPayload.dataLen ≤ atPayload.wptr) ∧
    (∃ s : State, configLegal s.cfg = true ∧ s.wptr < s.dataLen ∧ s.cfg.swapRegisters = false) ∧
    (∃ s : State, configLegal s.cfg = true ∧ s.wptr < s.dataLen ∧ s.cfg.swapRegisters = true ∧ s.rcnt = 1) ∧
    ∃ s : State, configLegal s.cfg = true ∧ s.wptr < s.dataLen ∧ s.cfg.swapRegisters = true ∧ s.rcnt ≠ 1 ∧
      0 < s.wptr ∧ 0 < s.rcnt :=
  ⟨by decide, ⟨allocBuffer 1 atError, by decide⟩,
    ⟨{ allocBuffer 2 (State.powerOn (cfgSwap 2)) with wptr := 0, rcnt := 1 }, by decide⟩,
    ⟨allocBuffer 2 (State.powerOn (cfgSwap 2)), by decide⟩⟩
theorem witness_BufReadReturnsWrittenBytes : configLegal atPayload.cfg = true ∧
    (1 < atPayload.dataLen ∧ memRead atPayload.buf 1 = some 0x03) ∧ atPayload.dataLen ≤ 2 ∧
    (0 < (allocBuffer 1 atError).dataLen ∧ memRead (allocBuffer 1 atError).buf 0 = none) := by decide
theorem witness_WritesFollowTheIndexLaw : configLegal (cfgSwap 2) = true ∧
    ([1, 2, 3, 4] : List Byte).length ≤ (4 : Byte).toNat ∧ PayloadFits (cfgSwap 2) (4 : Byte).toNat :=
  ⟨by decide, by decide, fun _ => by decide⟩
theorem witness_SwapOverrunsAtTheIncompleteRegister : configLegal (cfgSwap 2) = true ∧ (cfgSwap 2).swapRegisters = true ∧
    ¬(cfgSwap 2).registerSize.toNat ∣ (5 : Byte).toNat ∧ ([1, 2, 3, 4] : List Byte).length =
      (cfgSwap 2).registerSize.toNat * ((5 : Byte).toNat / (cfgSwap 2).registerSize.toNat) := by decide
theorem witness_DispatchForSelectsTheSixTables : configLegal atError.cfg = true ∧
    (0x07 : Byte) ∉ ([0x01, 0x02, 0x03, 0x04, 0x05, 0x06, 0x0F, 0x10] : List Byte) := by decide
/-- The last tag of a table, and the first. -/
theorem witness_AdvanceStepsThroughTheTable : configLegal atQuantity.cfg = true ∧
    (∃ tags, phaseTable atQuantity.cfg.role atQuantity.functionCode = some tags ∧
      atQuantity.phaseIdx + 1 = tags.length) ∧
    ∃ tags, phaseTable atByteCount.cfg.role atByteCount.functionCode = some tags ∧
      atByteCount.phaseIdx + 1 < tags.length := ⟨by decide, ⟨_, rfl, by decide⟩, ⟨_, rfl, by decide⟩⟩
theorem witness_SlaveAddressRecordsOrIgnores : configLegal cfg0 = true ∧
    ((1 : Byte) = cfg0.mySlaveAddress ∨ cfg0.mySlaveAddress = 0) ∧
    ((0xFF : Byte) = Config.atReset.mySlaveAddress ∨ Config.atReset.mySlaveAddress = 0) ∧
    ¬((0xFF : Byte) = cfg0.mySlaveAddress ∨ cfg0.mySlaveAddress = 0) := by decide
/-- Bit 7 at its boundary, a supported code, and the two ends of the rest. -/
theorem witness_FunctionCodeClassifies : configLegal atFunctionCode.cfg = true ∧ 0x80 ≤ (0x80 : Byte).toNat ∧
    (0x10 : Byte) ∈ ([0x01, 0x02, 0x03, 0x04, 0x05, 0x06, 0x0F, 0x10] : List Byte) ∧
    ((0x7F : Byte).toNat < 0x80 ∧ (0x7F : Byte) ∉ ([0x01, 0x02, 0x03, 0x04, 0x05, 0x06, 0x0F, 0x10] : List Byte)) ∧
    ((0x00 : Byte).toNat < 0x80 ∧ (0x00 : Byte) ∉ ([0x01, 0x02, 0x03, 0x04, 0x05, 0x06, 0x0F, 0x10] : List Byte)) := by
  decide
/-- Both bytes of the field. -/
theorem witness_AddressWritesItsHalf : configLegal cfg0R = true ∧
    (∃ tags, phaseTable cfg0R.role 0x04 = some tags ∧ tags[0]? = some .address) ∧
    ∃ tags, phaseTable cfg0R.role 0x04 = some tags ∧ tags[1]? = some .address := ⟨by decide, ⟨_, rfl, rfl⟩, ⟨_, rfl, rfl⟩⟩
/-- The second byte with a zero quantity and with another, and the first byte. -/
theorem witness_QuantityRejectsZero : configLegal atQuantity.cfg = true ∧
    (∃ tags q, phaseTable atQuantity.cfg.role atQuantity.functionCode = some tags ∧
      tags[atQuantity.phaseIdx]? = some .quantity ∧ atQuantity.phaseIdx = 3 ∧ q = (0 : Word) ∧
      q = joinBytes (highByte atQuantity.quantity) 0) ∧
    (∃ tags q, phaseTable atQuantity.cfg.role atQuantity.functionCode = some tags ∧
      tags[atQuantity.phaseIdx]? = some .quantity ∧ ¬(atQuantity.phaseIdx = 3 ∧ q = 0) ∧
      q = joinBytes (highByte atQuantity.quantity) 1) ∧
    ∃ tags, phaseTable atQuantity.cfg.role atQuantity.functionCode = some tags ∧ tags[2]? = some .quantity :=
  ⟨by decide, ⟨_, _, rfl, rfl, rfl, rfl, by decide⟩, ⟨_, _, rfl, rfl, by decide, rfl⟩, ⟨_, rfl, rfl⟩⟩
/-- The count at the limit, one over it, and zero. -/
theorem witness_ByteCountAcceptsWithinTheLimit : configLegal atByteCount.cfg = true ∧
    (∃ tags, (0x60 : Byte) ≠ 0 ∧ (0x60 : Byte).toNat ≤ atByteCount.cfg.byteCountLimit ∧
      phaseTable atByteCount.cfg.role atByteCount.functionCode = some tags ∧
      tags[atByteCount.phaseIdx]? = some .byteCount) ∧
    atByteCount.cfg.byteCountLimit < (0x61 : Byte).toNat ∧ (0 : Byte) = 0 :=
  ⟨by decide, ⟨_, by decide, by decide, rfl, rfl⟩, by decide, rfl⟩
/-- The `Data` premises, for the first byte of a run (explicit and implicit) and for a byte inside one. -/
theorem witness_DataStoresFoldsAndCounts :
    (∃ (s : State) (tags : List ParserState), configLegal s.cfg = true ∧
      phaseTable s.cfg.role s.functionCode = some tags ∧ s.phaseIdx + 1 = tags.length ∧ s.bufAlloc = false ∧
      s.dataToReceive = 4) ∧
    (∃ (s : State) (tags : List ParserState), configLegal s.cfg = true ∧
      phaseTable s.cfg.role s.functionCode = some tags ∧ s.phaseIdx + 1 = tags.length ∧ s.bufAlloc = false ∧
      s.dataToReceive = 0 ∧ s.cfg.swapRegisters = true ∧ 2 - 1 < 2) ∧
    (∃ (s : State) (tags : List ParserState), configLegal s.cfg = true ∧
      phaseTable s.cfg.role s.functionCode = some tags ∧ s.phaseIdx + 1 = tags.length ∧ s.bufAlloc = true ∧
      0 < s.dataToReceive ∧ s.wptr < s.dataLen) ∧
    ∃ (s : State) (tags : List ParserState), configLegal s.cfg = true ∧
      phaseTable s.cfg.role s.functionCode = some tags ∧ s.phaseIdx + 1 = tags.length ∧ s.bufAlloc = false ∧
      s.dataToReceive ≤ s.cfg.registerSize.toNat - 1 ∧ s.dataToReceive ≠ 0 ∧ s.cfg.swapRegisters = true :=
  ⟨⟨fed cfg0 [0x01, 0x03, 0x04], _, by decide, rfl, by decide⟩,
    ⟨fed (cfgSwap 2) [0x01, 0x06, 0x00, 0x01], _, by decide, rfl, by decide⟩,
    ⟨fed cfg0 [0x01, 0x03, 0x04, 0x00], _, by decide, rfl, by decide⟩,
    ⟨fed (cfgSwap 4) [0x01, 0x03, 0x02], _, by decide, rfl, by decide⟩⟩
theorem witness_FirstCrcCompares : configLegal atFirstCrc.cfg = true ∧
    (0x24 : Byte) = (if atFirstCrc.cfg.endianness = .big then lowByte atFirstCrc.crc else highByte atFirstCrc.crc) ∧
    (0x09 : Byte) ≠ (if atFirstCrc.cfg.endianness = .big then lowByte atFirstCrc.crc else highByte atFirstCrc.crc) := by
  decide
theorem witness_SecondCrcComparesAndCompletes : configLegal atSecondCrc.cfg = true ∧
    (0x09 : Byte) = (if atSecondCrc.cfg.endianness = .big then highByte atSecondCrc.crc else lowByte atSecondCrc.crc) ∧
    (0x24 : Byte) ≠ (if atSecondCrc.cfg.endianness = .big then highByte atSecondCrc.crc else lowByte atSecondCrc.crc) ∧
    atSecondCrc.dataToReceive = 0 ∧ { atSecondCrc with dataToReceive := 1 }.dataToReceive ≠ 0 := by decide
theorem witness_FeedRunsTheHandlerOfState : ∀ p : ParserState, ∃ s : State, s.state = p :=
  fun p => ⟨{ atError with state := p }, rfl⟩
/-- The last cursor inside and the first outside; the shortest swapped allocation that holds a register, and one byte
less. -/
theorem witness_FeedAnswersNextOrOverrun :
    (∃ s : State, configLegal s.cfg = true ∧ s.state = .data ∧ s.bufAlloc = true ∧ s.dataLen ≤ s.wptr) ∧
    (∃ s : State, configLegal s.cfg = true ∧ s.state = .data ∧ s.bufAlloc = false ∧ s.cfg.swapRegisters = true ∧
      s.dataToReceive = 0 ∧ 2 < s.cfg.registerSize.toNat) ∧
    (∃ s : State, configLegal s.cfg = true ∧ s.state = .data ∧ s.bufAlloc = false ∧ s.cfg.swapRegisters = true ∧
      s.dataToReceive ≠ 0 ∧ ¬s.dataToReceive < s.cfg.registerSize.toNat) ∧
    ∃ s : State, configLegal s.cfg = true ∧ s.state ≠ .data :=
  ⟨⟨{ atPayload with state := .data }, by decide⟩, ⟨fed (cfgSwap 3) [0x01, 0x06, 0x00, 0x01], by decide⟩,
    ⟨fed (cfgSwap 4) [0x01, 0x03, 0x04], by decide⟩, ⟨atError, by decide⟩⟩
/-- A byte that completes, one that errs, one that does neither. -/
theorem witness_FeedEmitsOnlyOnTerminalEntry :
    (∃ t, ReachableShape atSecondCrc ∧ exec (.feed 0x09) atSecondCrc = .next t ∧ t.state = .complete) ∧
    (∃ t, ReachableShape atFunctionCode ∧ exec (.feed 0x07) atFunctionCode = .next t ∧ t.state = .error) ∧
    ∃ t, ReachableShape atFirstCrc ∧ exec (.feed 0x24) atFirstCrc = .next t ∧ t.state ≠ .complete ∧ t.state ≠ .error :=
  ⟨⟨_, shape_atSecondCrc, rfl, by decide⟩, ⟨_, shape_atFunctionCode, rfl, by decide⟩, ⟨_, shape_atFirstCrc, rfl, by decide⟩⟩
theorem witness_CompleteOnlyByMatchingCrc :
    ∃ t, ReachableShape atSecondCrc ∧ exec (.feed 0x09) atSecondCrc = .next t ∧ t.state = .complete :=
  ⟨_, shape_atSecondCrc, rfl, by decide⟩
/-- One error of every cause. -/
theorem witness_ErrorRecordsByCause :
    (∃ t, ReachableShape atFunctionCode ∧ exec (.feed 0x07) atFunctionCode = .next t ∧ t.state = .error) ∧
    (∃ t, ReachableShape atQuantity ∧ exec (.feed 0x00) atQuantity = .next t ∧ t.state = .error) ∧
    (∃ t, ReachableShape atByteCount ∧ exec (.feed 0x61) atByteCount = .next t ∧ t.state = .error) ∧
    (∃ t, ReachableShape atFirstCrc ∧ exec (.feed 0x09) atFirstCrc = .next t ∧ t.state = .error) ∧
    (∃ t, ReachableShape atSecondCrc ∧ exec (.feed 0x24) atSecondCrc = .next t ∧ t.state = .error) ∧
    ∃ t, ReachableShape atException ∧ exec (.feed 0x02) atException = .next t ∧ t.state = .error :=
  ⟨⟨_, shape_atFunctionCode, rfl, by decide⟩, ⟨_, shape_atQuantity, rfl, by decide⟩,
    ⟨_, shape_atByteCount, rfl, by decide⟩, ⟨_, shape_atFirstCrc, rfl, by decide⟩,
    ⟨_, shape_atSecondCrc, rfl, by decide⟩, ⟨_, shape_atException, rfl, by decide⟩⟩
/-- An error before the byte is folded, and one after. -/
theorem witness_ErrorEntryChangesNothingElse :
    (∃ t, ReachableShape atFunctionCode ∧ exec (.feed 0x07) atFunctionCode = .next t ∧ t.state = .error) ∧
    ∃ t, ReachableShape atQuantity ∧ exec (.feed 0x00) atQuantity = .next t ∧ t.state = .error :=
  ⟨⟨_, shape_atFunctionCode, rfl, by decide⟩, ⟨_, shape_atQuantity, rfl, by decide⟩⟩
theorem witness_OnlyDataWritesThePayload : ∃ t, exec (.feed 0x24) { atPayload with state := .firstCRC } = .next t ∧
    { atPayload with state := .firstCRC }.state ≠ .data ∧ { atPayload with state := .firstCRC }.state ≠ .complete ∧
    { atPayload with state := .firstCRC }.state ≠ .error := ⟨_, rfl, by decide⟩
/-- Of no bytes; a call that stops short of its last byte. -/
theorem witness_FeednCompletesInLinearMode : (configLegal atError.cfg = true ∧ atError.cfg.swapRegisters = false ∧
      ReachableShape atError) ∧
    (∃ t, exec (.feedn []) atError = .next t ∧ FinishesIn 0 t t) ∧
    ∃ t u, exec (.feedn [0x01, 0x07, 0x01]) atError = .next t ∧ FinishesIn 1 t u ∧ u.returned = .count 2 ∧
      u.state = .error :=
  ⟨⟨by decide, by decide, shape_atError⟩, ⟨_, rfl, rfl, rfl⟩,
    ⟨_, _, rfl, ⟨nofun, _, rfl, rfl, rfl⟩, by decide, by decide⟩⟩
/-- A first chunk with a second that finishes; with a second that faults at its first step, and at a later one. -/
theorem witness_ChunkingIsAssociative :
    (∃ u v, Finishes (.feedn [0x01, 0x0F]) atError u ∧ u.returned = .count 2 ∧ u.state ≠ .error ∧
      Finishes (.feedn [0x00]) u v ∧ v.returned = .count 1) ∧
    (∃ u, Finishes (.feedn [0x01, 0x03, 0x02]) (State.powerOn (cfgSwap 4)) u ∧ u.returned = .count 3 ∧
      u.state ≠ .error ∧ Faults (.feedn [0xAA]) u .bufferOverrun) ∧
    ∃ u, Finishes (.feedn [0x01, 0x03]) (State.powerOn (cfgSwap 4)) u ∧ u.returned = .count 2 ∧ u.state ≠ .error ∧
      Faults (.feedn [0x02, 0xAA]) u .bufferOverrun :=
  ⟨⟨_, _, ⟨1, _, rfl, nofun, _, rfl, rfl, rfl⟩, rfl, by decide, ⟨0, _, rfl, rfl, rfl⟩, rfl⟩,
    ⟨_, ⟨2, _, rfl, nofun, _, rfl, nofun, _, rfl, rfl, rfl⟩, rfl, by decide, .inl rfl⟩,
    ⟨_, ⟨1, _, rfl, nofun, _, rfl, rfl, rfl⟩, rfl, by decide, .inr ⟨1, _, rfl, nofun, .inl ⟨rfl, rfl⟩⟩⟩⟩

/-- The premise of the lockstep that the FEEDs before step `j` have not entered `Error`. -/
def noErrorBefore (j : Nat) (s : State) : Prop :=
  ∀ i w, 0 < i → i < j → Host.Core.run Sys2Proof.core i s = .next w → w.state ≠ .error

/-- The first byte; the last one; one that errs with a byte to come; one that faults. -/
theorem witness_FeednIsTheSteppedFeeds :
    (∃ s w, s.delivery = none ∧ s.script = ([0x01, 0x0F] : List Byte).map (FetchItem.port 1) ++ [.port 2 0] ∧
      noErrorBefore 1 s ∧ Host.Core.run Sys2Proof.core 1 s = .next w) ∧
    (∃ s w, s.delivery = none ∧ s.script = ([0x01, 0x0F] : List Byte).map (FetchItem.port 1) ++ [] ∧
      noErrorBefore 2 s ∧ Host.Core.run Sys2Proof.core 2 s = .next w ∧ w.state ≠ .error) ∧
    (∃ s w, s.delivery = none ∧ s.script = ([0x01, 0x07, 0x01] : List Byte).map (FetchItem.port 1) ++ [] ∧
      noErrorBefore 2 s ∧ Host.Core.run Sys2Proof.core 2 s = .next w ∧ w.state = .error) ∧
    ∃ s, s.delivery = none ∧ s.script = ([0x02, 0xAA] : List Byte).map (FetchItem.port 1) ++ [] ∧
      noErrorBefore 2 s ∧ Host.Core.run Sys2Proof.core 2 s = .fault .bufferOverrun := by
  have second : ∀ (s v : State), Host.Core.run Sys2Proof.core 1 s = .next v → v.state ≠ .error → noErrorBefore 2 s := by
    intro s v hv he i w h0 h1 h
    obtain rfl : i = 1 := by omega
    rw [hv] at h
    cases h
    exact he
  exact ⟨⟨{ atError with script := [.port 1 0x01, .port 1 0x0F, .port 2 0] }, _, rfl, rfl, by intro i w; omega, rfl⟩,
    ⟨{ atError with script := [.port 1 0x01, .port 1 0x0F] }, _, rfl, rfl, second _ _ rfl (by decide), rfl, by decide⟩,
    ⟨{ atError with script := [.port 1 0x01, .port 1 0x07, .port 1 0x01] }, _, rfl, rfl,
      second _ _ rfl (by decide), rfl, by decide⟩,
    ⟨{ fed (cfgSwap 4) [0x01, 0x03] with script := [.port 1 0x02, .port 1 0xAA] }, rfl, rfl,
      second _ _ rfl (by decide), rfl⟩⟩

theorem takes_fresh : TakesFrame (State.powerOn cfg0) .response 0x01 := ⟨by decide, rfl, .inl rfl, .inl rfl⟩
theorem takes_fresh_request : TakesFrame (State.powerOn cfg0R) .request 0x01 := ⟨by decide, rfl, .inl rfl, .inl rfl⟩
theorem takes_promiscuous : TakesFrame State.reset .response 0xFF := ⟨by decide, rfl, .inr rfl, .inl rfl⟩
theorem takes_after_error : TakesFrame atError .response 0x01 := ⟨by decide, rfl, .inl rfl, .inr (.inr rfl)⟩
theorem takes_after_complete : TakesFrame atPayload .response 0x01 := ⟨by decide, rfl, .inl rfl, .inr (.inl rfl)⟩
theorem takes_swapped : TakesFrame (State.powerOn (cfgSwap 2)) .response 0x01 := ⟨by decide, rfl, .inl rfl, .inl rfl⟩

/-- The shortest payload, the longest the limit allows, and a swapped one. -/
theorem witness_ByteCountFramesComplete :
    (TakesFrame atError .response 0x01 ∧ ([0xAC] : List Byte).length = (1 : Byte).toNat ∧ (1 : Byte) ≠ 0 ∧
      (1 : Byte).toNat ≤ atError.cfg.byteCountLimit ∧ PayloadFits atError.cfg (1 : Byte).toNat) ∧
    (TakesFrame atPayload .response 0x01 ∧ (List.replicate 96 (0 : Byte)).length = (96 : Byte).toNat ∧ (96 : Byte) ≠ 0 ∧
      (96 : Byte).toNat ≤ atPayload.cfg.byteCountLimit ∧ PayloadFits atPayload.cfg (96 : Byte).toNat) ∧
    (TakesFrame (State.powerOn (cfgSwap 2)) .response 0x01 ∧ ([1, 2] : List Byte).length = (2 : Byte).toNat ∧
      (2 : Byte) ≠ 0 ∧ (2 : Byte).toNat ≤ (cfgSwap 2).byteCountLimit ∧ PayloadFits (cfgSwap 2) (2 : Byte).toNat) :=
  ⟨⟨takes_after_error, by decide, by decide, by decide, nofun⟩,
    ⟨takes_after_complete, by decide, by decide, by decide, nofun⟩,
    ⟨takes_swapped, by decide, by decide, by decide, fun _ => by decide⟩⟩
theorem witness_AddressValueFramesComplete : (TakesFrame State.reset .response 0xFF ∧ PayloadFits State.reset.cfg 2) ∧
    (TakesFrame (State.powerOn cfg0R) .request 0x01 ∧ PayloadFits cfg0R 2) ∧
    (TakesFrame (State.powerOn (cfgSwap 2)) .response 0x01 ∧ PayloadFits (cfgSwap 2) 2) :=
  ⟨⟨takes_promiscuous, nofun⟩, ⟨takes_fresh_request, nofun⟩, ⟨takes_swapped, fun _ => by decide⟩⟩
theorem witness_AddressQuantityFramesComplete :
    (TakesFrame (State.powerOn cfg0) .response 0x01 ∧ (1 : Word) ≠ 0) ∧
    (TakesFrame (State.powerOn cfg0R) .request 0x01 ∧ (0xFFFF : Word) ≠ 0) :=
  ⟨⟨takes_fresh, by decide⟩, ⟨takes_fresh_request, by decide⟩⟩
theorem witness_WriteMultipleFramesComplete : TakesFrame (State.powerOn cfg0R) .request 0x01 ∧ (0x000A : Word) ≠ 0 ∧
    ([0xCD, 0x01] : List Byte).length = (2 : Byte).toNat ∧ (2 : Byte) ≠ 0 ∧
    (2 : Byte).toNat ≤ cfg0R.byteCountLimit ∧ PayloadFits cfg0R (2 : Byte).toNat :=
  ⟨takes_fresh_request, by decide, by decide, by decide, by decide, nofun⟩
theorem witness_ExceptionFramesEndInTheirCode : (0x80 : Byte).msb = true ∧ (0xFF : Byte).msb = true ∧
    TakesFrame atError .response 0x01 ∧ TakesFrame (State.powerOn cfg0R) .request 0x01 :=
  ⟨by decide, by decide, takes_after_error, takes_fresh_request⟩
theorem witness_IllegalFramesEndInIllegalFunction :
    ((0x00 : Byte).msb = false ∧ supportedCodes.contains 0x00 = false) ∧
    ((0x7F : Byte).msb = false ∧ supportedCodes.contains 0x7F = false) ∧
    TakesFrame atError .response 0x01 ∧ TakesFrame (State.powerOn cfg0R) .request 0x01 :=
  ⟨by decide, by decide, takes_after_error, takes_fresh_request⟩
/-- Both roles; a byte count of zero and one over the limit. -/
theorem witness_StructuralErrorsEndTheFrame : TakesFrame (State.powerOn cfg0) .response 0x01 ∧
    TakesFrame (State.powerOn cfg0R) .request 0x01 ∧
    ((0 : Byte) = 0 ∨ cfg0.byteCountLimit < (0 : Byte).toNat) ∧
    ((0x61 : Byte) = 0 ∨ cfg0R.byteCountLimit < (0x61 : Byte).toNat) ∧ (1 : Word) ≠ 0 :=
  ⟨takes_fresh, takes_fresh_request, by decide, by decide, by decide⟩
/-- For each format a wrong first byte (one CRC byte fed) and a wrong second byte (two). -/
theorem witness_WrongCrcEndsInCrcError :
    (TakesFrame (State.powerOn cfg0) .response 0x01 ∧
      ([0x00, 0x06, 0x00, 0x05] : List Byte).length = (4 : Byte).toNat ∧ (4 : Byte) ≠ 0 ∧
      (4 : Byte).toNat ≤ cfg0.byteCountLimit ∧ PayloadFits cfg0 (4 : Byte).toNat ∧
      crcOfBytes [0x01, 0x03, 0x04, 0x00, 0x06, 0x00, 0x05] = 0x31DA ∧
      crcBytesFed .big 0x31FF 0x31DA = 1 ∧ crcBytesFed .big 0x30DA 0x31DA = 2) ∧
    (TakesFrame (State.powerOn cfg0) .response 0x01 ∧ TakesFrame (State.powerOn cfg0R) .request 0x01 ∧
      PayloadFits cfg0 2 ∧ crcOfBytes [0x01, 0x06, 0x00, 0x01, 0x00, 0x03] = 0x0B98 ∧
      crcBytesFed .big 0x0BFF 0x0B98 = 1 ∧ crcBytesFed .big 0x0A98 0x0B98 = 2) ∧
    (TakesFrame (State.powerOn cfg0) .response 0x01 ∧ TakesFrame (State.powerOn cfg0R) .request 0x01 ∧
      (0x000A : Word) ≠ 0 ∧ crcOfBytes [0x01, 0x0F, 0x00, 0x13, 0x00, 0x0A] = 0x0924 ∧
      crcBytesFed .big 0x0925 0x0924 = 1 ∧ crcBytesFed .big 0x0824 0x0924 = 2) ∧
    (TakesFrame (State.powerOn cfg0R) .request 0x01 ∧ (0x0002 : Word) ≠ 0 ∧
      ([0x00, 0x0A, 0x01, 0x02] : List Byte).length = (4 : Byte).toNat ∧ (4 : Byte) ≠ 0 ∧
      (4 : Byte).toNat ≤ cfg0R.byteCountLimit ∧ PayloadFits cfg0R (4 : Byte).toNat ∧
      crcOfBytes [0x01, 0x10, 0x00, 0x01, 0x00, 0x02, 0x04, 0x00, 0x0A, 0x01, 0x02] = 0x3092 ∧
      crcBytesFed .big 0x3093 0x3092 = 1 ∧ crcBytesFed .little 0x3093 0x3092 = 2) :=
  ⟨⟨takes_fresh, by decide, by decide, by decide, nofun, by decide, by decide, by decide⟩,
    ⟨takes_fresh, takes_fresh_request, nofun, by decide, by decide, by decide⟩,
    ⟨takes_fresh, takes_fresh_request, by decide, by decide, by decide, by decide⟩,
    ⟨takes_fresh_request, by decide, by decide, by decide, by decide, nofun, by decide, by decide, by decide⟩⟩
theorem witness_FrameKindIsFeednOfItsBytes : (∃ rest, encode cfg0 (.rsp02 1 1 [0xAC] 0xF5A1) = some (.frame (1 :: rest))) ∧
    TakesFrame (State.powerOn cfg0) (State.powerOn cfg0).cfg.role 0x01 := ⟨⟨_, rfl⟩, takes_fresh⟩
/-- A command and a frame; in a composite of either kind a byte with more to come, the last one, and one that errs. -/
theorem witness_StepRunsTheDecodedInstruction :
    (∃ (s : State) (item : FetchItem) (rest : List FetchItem) (i : Instr), s.delivery = none ∧ s.script = item :: rest ∧
      decode s.cfg item = .ok i ∧ i = .feed 0x01) ∧
    (∃ (s : State) (item : FetchItem) (rest : List FetchItem) (i : Instr), s.delivery = none ∧ s.script = item :: rest ∧
      decode s.cfg item = .ok i ∧ i = .rspExc 0x01 0x82 0x02) ∧
    ∀ k : DeliveryKind,
      (∃ s t, s.delivery = some { kind := k, rest := [0x0F, 0x00], consumed := 1 } ∧ exec (.feed 0x0F) s = .next t ∧
        t.state ≠ .error) ∧
      (∃ s t, s.delivery = some { kind := k, rest := [0x0F], consumed := 1 } ∧ exec (.feed 0x0F) s = .next t ∧
        t.state ≠ .error) ∧
      ∃ s t, s.delivery = some { kind := k, rest := [0x07, 0x01], consumed := 1 } ∧ exec (.feed 0x07) s = .next t ∧
        t.state = .error :=
  ⟨⟨{ atError with script := [.port 1 0x01] }, _, _, _, rfl, rfl, rfl, rfl⟩,
    ⟨{ atError with script := [.frame [0x01, 0x82, 0x02]] }, _, _, _, rfl, rfl, rfl, rfl⟩,
    fun _ => ⟨⟨{ atFunctionCode with delivery := some _ }, _, rfl, rfl, nofun⟩,
      ⟨{ atFunctionCode with delivery := some _ }, _, rfl, rfl, nofun⟩,
      ⟨{ atFunctionCode with delivery := some _ }, _, rfl, rfl, rfl⟩⟩⟩
/-- A step that emits nothing, one that completes, one that errs; the last two inside a composite. -/
theorem witness_StepEmitsAtMostOneEvent :
    (∃ t, step { atError with script := [.port 1 0x01] } = .next t ∧ t.events = atError.events) ∧
    (∃ t, step { atSecondCrc with delivery := some { kind := .frame, rest := [0x09], consumed := 7 } } = .next t ∧
      t.events = atSecondCrc.events ++ [.onComplete]) ∧
    ∃ t, step { atFunctionCode with delivery := some { kind := .feedn, rest := [0x07, 0x01], consumed := 1 } } = .next t ∧
      t.events = atFunctionCode.events ++ [.onError] := ⟨⟨_, rfl, rfl⟩, ⟨_, rfl, rfl⟩, ⟨_, rfl, rfl⟩⟩
/-- An empty script; an item of each reason; a frame that decodes, cut by one byte and with one byte more. -/
theorem witness_StepRefusesWhatIsNoInstruction : (atError.delivery = none ∧ atError.script = []) ∧
    (∃ s : State, s.delivery = none ∧ s.script = [.port 3 0xFF] ∧ rejects s.cfg (.port 3 0xFF) =
      some .unassignedCommand) ∧
    (∃ s : State, s.delivery = none ∧ s.script = [.frame [0x01, 0x82]] ∧ rejects s.cfg (.frame [0x01, 0x82]) =
      some .truncatedFrame) ∧
    (∃ s : State, s.delivery = none ∧ s.script = [.frame [0x01, 0x07, 0x00]] ∧
      rejects s.cfg (.frame [0x01, 0x07, 0x00]) = some .trailingBytes) ∧
    ∃ i, decode cfg0 (.frame ([0x01, 0x82] ++ 0x02 :: [])) = .ok i :=
  ⟨⟨rfl, rfl⟩, ⟨{ atError with script := [.port 3 0xFF] }, rfl, rfl, by decide⟩,
    ⟨{ atError with script := [.frame [0x01, 0x82]] }, rfl, rfl, by decide⟩,
    ⟨{ atError with script := [.frame [0x01, 0x07, 0x00]] }, rfl, rfl, by decide⟩, ⟨_, rfl⟩⟩
theorem witness_ExecKeepsConfiguration : ∃ t, exec (.rspExc 0x01 0x82 0x02) atError = .next t := ⟨_, rfl⟩
theorem witness_ExecKeepsMemoryCanonical : ∃ t, exec (.bufWrite 0x07) { atPayload with wptr := 0 } = .next t ∧
    Memory.wf { atPayload with wptr := 0 }.buf = true := ⟨_, rfl, by decide⟩
/-- A step of the shape; a step after which a composite is in progress. -/
theorem witness_StepKeepsTheShape : (∃ t, ReachableShape atFunctionCode ∧ step atFunctionCode = .next t) ∧
    ∃ t, step { atError with script := [.bulk [0x01, 0x03]] } = .next t ∧
      t.delivery = some { kind := .feedn, rest := [0x03], consumed := 1 } :=
  ⟨⟨_, shape_atFunctionCode, rfl⟩, ⟨_, rfl, rfl⟩⟩
theorem witness_TerminalPayloadIsReadable : configLegal atPayload.cfg = true ∧ ReachableShape atPayload ∧
    (atPayload.state = .complete ∨ atPayload.state = .error) ∧ 1 < atPayload.dataLen :=
  ⟨by decide, shape_atPayload, by decide, by decide⟩
/-- A state for each clause. -/
theorem witness_ShapeGivesTheSanityFacts : (ReachableShape atError ∧ atError.bufAlloc = false ∧ atError.error ≠ 0) ∧
    (ReachableShape atPayload ∧ atPayload.state = .complete) ∧
    (ReachableShape atQuantity ∧ atQuantity.state = .quantity) ∧
    (ReachableShape atByteCount ∧ atByteCount.state = .byteCount) ∧ ReachableShape atFirstCrc :=
  ⟨⟨shape_atError, rfl, by decide⟩, ⟨shape_atPayload, rfl⟩, ⟨shape_atQuantity, rfl⟩, ⟨shape_atByteCount, rfl⟩,
    shape_atFirstCrc⟩
theorem witness_DecodeOfEncodeIsTheInstruction : ∃ item, WellFormed (.rsp02 1 1 [0xAC] 0xF5A1) = true ∧
    encode cfg0 (.rsp02 1 1 [0xAC] 0xF5A1) = some item := ⟨_, by decide, rfl⟩
theorem witness_EncodeOfDecodeIsTheFrame : ∃ i, decode cfg0R (.frame [0x01, 0x82, 0x02]) = .ok i := ⟨_, rfl⟩
theorem witness_FunctionCodesFallInThreeClasses : (0x80 : Byte).msb = true ∧
    ((0x11 : Byte).msb = false ∧ supportedCodes.contains 0x11 = false) ∧ supportedCodes.contains 0x10 = true := by decide
/-- A state of each value of `state`; an element of a payload. -/
theorem witness_AccessorsReadTheState : (∀ p : ParserState, ∃ s : State, s.state = p) ∧ 1 < atPayload.dataLen :=
  ⟨fun p => ⟨{ atError with state := p }, rfl⟩, by decide⟩

end

end Sys2Proof.Tests
end

section
/-! The two flags of R33, as functions of the parser state. -/

namespace Sys2Proof.Machine

@[simp] theorem isComplete_iff {s : State} : isComplete s = true ↔ s.state = .complete := beq_iff_eq

@[simp] theorem isError_iff {s : State} : isError s = true ↔ s.state = .error := beq_iff_eq

/-- The flags name two different values of one field, so they exclude each other. -/
theorem not_isComplete_and_isError (s : State) : ¬(isComplete s = true ∧ isError s = true) := by
  rintro ⟨hc, he⟩
  rw [isComplete_iff] at hc
  rw [isError_iff, hc] at he
  exact absurd he (by decide)

/-- Power-on stands before the first byte of a frame (R60, R263). -/
@[simp] theorem powerOn_state (c : Config) : (State.powerOn c).state = .slaveAddress := rfl

theorem isComplete_powerOn (c : Config) : isComplete (State.powerOn c) = false := by
  simp [← Bool.not_eq_true]

theorem isError_powerOn (c : Config) : isError (State.powerOn c) = false := by
  simp [← Bool.not_eq_true]

/-- Settles O59: each flag tests `state` for one value, and power-on has neither. -/
theorem flagsAreFunctionsOfState : Obligations.FlagsAreFunctionsOfState :=
  ⟨fun _ => isComplete_iff, fun _ => isError_iff, not_isComplete_and_isError,
    fun c => ⟨isComplete_powerOn c, isError_powerOn c⟩⟩

end Sys2Proof.Machine
end

section
/-! CRC.RESET, and the bytes of a 16-bit value in plain arithmetic. -/

namespace Sys2Proof

theorem toNat_lowByte (v : Word) : (lowByte v).toNat = v.toNat % 256 :=
  BitVec.toNat_setWidth 8 v

theorem toNat_highByte (v : Word) : (highByte v).toNat = v.toNat / 256 := by
  have hv : v.toNat < 256 * 256 := v.isLt
  calc (highByte v).toNat
    _ = v.toNat / 256 % 256 := by simp [highByte, Nat.shiftRight_eq_div_pow]
    _ = v.toNat / 256 := Nat.mod_eq_of_lt (Nat.div_lt_of_lt_mul hv)

/-- The shift leaves the low byte clear, so the OR is a sum. -/
theorem toNat_joinBytes (hi lo : Byte) : (joinBytes hi lo).toNat = hi.toNat * 256 + lo.toNat := by
  have hhi : hi.toNat < 256 := hi.isLt
  have hlo : lo.toNat < 2 ^ 8 := lo.isLt
  have hshift : hi.toNat <<< 8 % 65536 = hi.toNat <<< 8 := by
    rw [Nat.shiftLeft_eq]
    omega
  calc (joinBytes hi lo).toNat
    _ = hi.toNat <<< 8 ||| lo.toNat := by
      simp [joinBytes, hshift, Nat.mod_eq_of_lt (show hi.toNat < 65536 by omega),
        Nat.mod_eq_of_lt (show lo.toNat < 65536 by omega)]
    _ = hi.toNat <<< 8 + lo.toNat := (Nat.shiftLeft_add_eq_or_of_lt hlo _).symm
    _ = hi.toNat * 256 + lo.toNat := by rw [Nat.shiftLeft_eq]

namespace Machine

/-- Settles O5: CRC.RESET writes the constant over the register, and a legal configuration lets it. -/
theorem crcResetLoadsFFFF : Obligations.CrcResetLoadsFFFF :=
  fun _ h => withLegalConfig_of_legal h

/-- Settles O57: both wire orders of a field are `joinBytes`, and both wire orders of the CRC are its low and high
byte, of which the arithmetic is known. -/
theorem wireOrderFollowsEndianness : Obligations.WireOrderFollowsEndianness :=
  ⟨fun b1 b2 => ⟨toNat_joinBytes b1 b2, toNat_joinBytes b2 b1⟩,
    fun c => ⟨toNat_lowByte c, toNat_highByte c, toNat_highByte c, toNat_lowByte c⟩⟩

end Machine

end Sys2Proof
end

section
/-! Two of the engine's handlers: the byte count (R201) and the first CRC byte (R204). -/

namespace Sys2Proof

/-- The first CRC byte on the wire, as R204 words it. -/
theorem crcFirst_eq_ite (e : Endianness) (c : Word) :
    crcFirst e c = if e = .big then lowByte c else highByte c := by
  cases e <;> rfl

namespace Machine

/-- In every table `Data` stands right after `ByteCount` (R182 to R187). -/
theorem tag_after_byteCount {role : Role} {fc : Byte} {t : List ParserState} {p : Nat}
    (ht : phaseTable role fc = some t) (hp : t[p]? = some .byteCount) : t[p + 1]? = some .data := by
  have hall : ∀ i : Fin t.length, t[i] = .byteCount → t[i.val + 1]? = some .data := by
    rcases phaseTable_contents ht with rfl | rfl | rfl | rfl <;> decide
  obtain ⟨hlt, htag⟩ := List.getElem?_eq_some_iff.mp hp
  exact hall ⟨p, hlt⟩ htag

/-- `advance()` from the tag `ByteCount` enters `Data` (R188). -/
theorem advancePhase_of_byteCount {s : State} {t : List ParserState}
    (ht : phaseTable s.cfg.role s.functionCode = some t) (hp : t[s.phaseIdx]? = some .byteCount) :
    advancePhase s = { s with phaseIdx := s.phaseIdx + 1, state := .data } := by
  rw [advancePhase, stateAtPhase_of_tag ht (tag_after_byteCount ht hp)]

theorem onByteCount_of_invalid {b : Byte} {s : State} (h : b = 0 ∨ s.cfg.byteCountLimit < b.toNat) :
    onByteCount b s = raiseError illegalDataValue s := by
  unfold onByteCount
  by_cases h0 : b = 0
  · rw [if_pos h0]
  · rw [if_neg h0, if_pos (h.resolve_left h0)]

theorem onByteCount_of_valid {b : Byte} {s : State} (h0 : b ≠ 0) (hle : b.toNat ≤ s.cfg.byteCountLimit) :
    onByteCount b s = advancePhase (foldCrc b { s with byteCount := b, dataToReceive := b.toNat }) := by
  rw [onByteCount, if_neg h0, if_neg (Nat.not_lt.mpr hle)]

theorem exec_hByteCount_of_legal {b : Byte} {s : State} (h : configLegal s.cfg = true) :
    exec (.hByteCount b) s = .next (onByteCount b s) := withLegalConfig_of_legal h

theorem exec_hFirstCRC_of_legal {b : Byte} {s : State} (h : configLegal s.cfg = true) :
    exec (.hFirstCRC b) s = .next (onFirstCRC b s) := withLegalConfig_of_legal h

/-- Settles O21: an invalid count only raises the error; a valid one is recorded and folded before the advance, and
neither write touches what the table and the phase index are read from. -/
theorem byteCountAcceptsWithinTheLimit : Obligations.ByteCountAcceptsWithinTheLimit := by
  intro b s hl
  rw [exec_hByteCount_of_legal hl]
  refine ⟨fun hbad => ?_, fun tags h0 hle ht hp => ?_⟩
  · rw [onByteCount_of_invalid hbad]
    rfl
  · rw [onByteCount_of_valid h0 hle,
      advancePhase_of_byteCount (s := foldCrc b { s with byteCount := b, dataToReceive := b.toNat }) ht hp]
    rfl

/-- Settles O24: the handler is the comparison with the first CRC byte, and neither arm writes `crc`. -/
theorem firstCrcCompares : Obligations.FirstCrcCompares := by
  intro b s hl
  rw [exec_hFirstCRC_of_legal hl, ← crcFirst_eq_ite, onFirstCRC]
  refine ⟨fun heq => ?_, fun hne => ?_⟩
  · rw [if_pos heq]
  · rw [if_neg hne]
    rfl

end Machine

end Sys2Proof
end

section
/-! The two terminal entries of 60_exceptions.md: the only ways a FEED enters `Complete` (R301) or `Error` (R300). -/

namespace Sys2Proof.Machine

/-! ## The dispatch walk stays outside the terminal states -/

theorem isTerminal_eq_false_iff {s : State} : isTerminal s = false ↔ s.state ≠ .complete ∧ s.state ≠ .error := by
  simp [isTerminal, ← Bool.not_eq_true]

/-- No table holds a terminal state (R182 to R187). -/
theorem phaseTable_not_terminal {role : Role} {fc : Byte} {t : List ParserState} (ht : phaseTable role fc = some t) :
    .complete ∉ t ∧ .error ∉ t := by
  rcases phaseTable_contents ht with rfl | rfl | rfl | rfl <;> decide

/-- Up to the end of a table `state` becomes one of its tags or `FirstCRC` (R188). -/
theorem stateAtPhase_mem {role : Role} {fc : Byte} {t : List ParserState} {p : Nat}
    (ht : phaseTable role fc = some t) (hp : p ≤ t.length) : stateAtPhase role fc p ∈ t ++ [.firstCRC] := by
  rcases Nat.lt_or_eq_of_le hp with hlt | rfl
  · rw [stateAtPhase_of_tag ht (List.getElem?_eq_getElem hlt)]
    simp
  · rw [stateAtPhase_past ht]
    simp

theorem stateAtPhase_not_terminal {role : Role} {fc : Byte} {t : List ParserState} {p : Nat}
    (ht : phaseTable role fc = some t) (hp : p ≤ t.length) :
    stateAtPhase role fc p ≠ .complete ∧ stateAtPhase role fc p ≠ .error := by
  have hmem := stateAtPhase_mem ht hp
  obtain ⟨hc, he⟩ := phaseTable_not_terminal ht
  exact ⟨fun heq => by simp [heq, hc] at hmem, fun heq => by simp [heq, he] at hmem⟩

theorem AtPhase.not_terminal {s : State} (h : AtPhase s) : isTerminal s = false := by
  obtain ⟨t, ht, htag⟩ := h
  obtain ⟨hc, he⟩ := phaseTable_not_terminal ht
  have hmem := List.mem_of_getElem? htag
  exact isTerminal_eq_false_iff.mpr ⟨fun heq => hc (heq ▸ hmem), fun heq => he (heq ▸ hmem)⟩

theorem AtPhase.advancePhase_not_terminal {s : State} (h : AtPhase s) : isTerminal (advancePhase s) = false := by
  obtain ⟨t, ht, htag⟩ := h
  obtain ⟨hlt, -⟩ := List.getElem?_eq_some_iff.mp htag
  exact isTerminal_eq_false_iff.mpr (stateAtPhase_not_terminal ht hlt)

theorem atPhase_enterData {s : State} (h : AtPhase s) : AtPhase (enterData s) := by
  unfold enterData
  split
  · exact h
  · exact h

theorem atPhase_moveCursor {s : State} (h : AtPhase s) : AtPhase (moveCursor s) := by
  simpa [AtPhase, currentTable] using h

/-! ## What each handler enters -/

theorem onSlaveAddress_not_terminal (b : Byte) {s : State} (hs : s.state = .slaveAddress) :
    isTerminal (onSlaveAddress b s) = false := by
  unfold onSlaveAddress
  split
  · rfl
  · simp [isTerminal_eq_false_iff, hs]

/-- A supported code enters its table's first tag; bit 7 enters `ModbusException`; any other code raises (R198). -/
theorem onFunctionCode_entry (b : Byte) (s : State) :
    isTerminal (onFunctionCode b s) = false ∨ onFunctionCode b s = raiseError illegalFunction s := by
  unfold onFunctionCode
  split
  · exact .inl rfl
  · split
    next hsup =>
      obtain ⟨t, ht⟩ := Option.isSome_iff_exists.mp ((phaseTable_isSome s.cfg.role b).trans hsup)
      exact .inl (isTerminal_eq_false_iff.mpr (stateAtPhase_not_terminal ht (Nat.zero_le _)))
    next => exact .inr rfl

theorem onAddress_not_terminal (b : Byte) {s : State} (h : AtPhase s) : isTerminal (onAddress b s) = false :=
  AtPhase.advancePhase_not_terminal (s := foldCrc b { s with address := _ }) h

/-- The register contents the `Quantity` handler makes its zero test on: the byte written to its half and folded (R200). -/
def quantityWritten (b : Byte) (s : State) : State :=
  foldCrc b { s with quantity := writeHalf s.cfg.endianness (isFirstByte s.phaseIdx) s.quantity b }

theorem onQuantity_eq (b : Byte) (s : State) : onQuantity b s =
    if !isFirstByte s.phaseIdx && (quantityWritten b s).quantity == 0 then
      raiseError illegalDataValue (quantityWritten b s)
    else advancePhase (quantityWritten b s) := rfl

theorem onQuantity_entry (b : Byte) {s : State} (h : AtPhase s) :
    isTerminal (onQuantity b s) = false ∨ onQuantity b s = raiseError illegalDataValue (quantityWritten b s) := by
  rw [onQuantity_eq]
  split
  · exact .inr rfl
  · exact .inl (AtPhase.advancePhase_not_terminal (s := quantityWritten b s) h)

theorem onByteCount_entry (b : Byte) {s : State} (h : AtPhase s) :
    isTerminal (onByteCount b s) = false ∨ onByteCount b s = raiseError illegalDataValue s := by
  by_cases hbad : b = 0 ∨ s.cfg.byteCountLimit < b.toNat
  · exact .inr (onByteCount_of_invalid hbad)
  · obtain ⟨h0, hle⟩ := not_or.mp hbad
    rw [onByteCount_of_valid h0 (Nat.not_lt.mp hle)]
    exact .inl (AtPhase.advancePhase_not_terminal (s := foldCrc b { s with byteCount := b, dataToReceive := _ }) h)

theorem finishData_not_terminal (b : Byte) {s : State} (h : AtPhase s) : isTerminal (finishData b s) = false := by
  have hfold : AtPhase (foldCrc b { s with dataToReceive := decrement .dataToReceive s.dataToReceive }) := h
  dsimp only [finishData]
  split
  · exact hfold.advancePhase_not_terminal
  · exact hfold.not_terminal

/-- Neither the allocation nor the store moves the block out of its phase (R202). -/
theorem onData_not_terminal {b : Byte} {s t : State} (h : AtPhase s) (hd : onData b s = .next t) :
    isTerminal t = false := by
  obtain ⟨-, rfl⟩ := onData_next hd
  have hput : AtPhase { enterData s with buf := memWrite (enterData s).buf (enterData s).wptr b } := atPhase_enterData h
  exact finishData_not_terminal b (atPhase_moveCursor hput)

theorem onFirstCRC_entry (b : Byte) (s : State) :
    isTerminal (onFirstCRC b s) = false ∨ onFirstCRC b s = raiseError crcError s := by
  unfold onFirstCRC
  split
  · exact .inl rfl
  · exact .inr rfl

/-- `SecondCRC` always ends the frame (R205). -/
theorem onSecondCRC_entry (b : Byte) (s : State) :
    (b = crcSecond s.cfg.endianness s.crc ∧ s.dataToReceive = 0 ∧ onSecondCRC b s = completeFrame s) ∨
      ∃ k, onSecondCRC b s = raiseError k s := by
  unfold onSecondCRC
  split
  next hb =>
    split
    next hd => exact .inl ⟨hb, hd, rfl⟩
    next => exact .inr ⟨_, rfl⟩
  next => exact .inr ⟨_, rfl⟩

/-! ## What a FEED enters -/

/-- The arm that raises is reached with `u`: the state before the byte, or, in `Quantity`, with the byte recorded. -/
def RaisesFrom (b : Byte) (s u : State) : Prop := u = s ∨ s.state = .quantity ∧ u = quantityWritten b s

/-- What can follow a FEED: a state that is not terminal, the completion entry (R301), or the error entry (R300). -/
inductive FeedEntry (b : Byte) (s : State) : State → Prop
  | goesOn {t} (h : isTerminal t = false) : FeedEntry b s t
  | completes (hs : s.state = .secondCRC) (hb : b = crcSecond s.cfg.endianness s.crc) (hd : s.dataToReceive = 0) :
      FeedEntry b s (completeFrame s)
  | raises (k : Byte) {u} (h : RaisesFrom b s u) : FeedEntry b s (raiseError k u)

/-- A handler that goes on or raises from `u`. -/
theorem FeedEntry.of_entry {b k : Byte} {s t u : State} (hu : RaisesFrom b s u)
    (h : isTerminal t = false ∨ t = raiseError k u) : FeedEntry b s t := by
  rcases h with h | rfl
  · exact .goesOn h
  · exact .raises k hu

/-- Handler by handler (R195): the only ways into `Complete` and `Error`. -/
theorem feedByte_entry {b : Byte} {s t : State} (hr : ReachableShape s) (h : feedByte b s = .next t) :
    FeedEntry b s t := by
  have hshape := hr.shape
  cases hs : s.state <;> simp only [feedByte, hs] at h <;> simp only [PhaseShape, hs] at hshape
  case data => exact .goesOn (onData_not_terminal hshape.1 h)
  all_goals cases h
  case slaveAddress => exact .goesOn (onSlaveAddress_not_terminal b hs)
  case functionCode => exact .of_entry (.inl rfl) (onFunctionCode_entry b s)
  case address => exact .goesOn (onAddress_not_terminal b hshape.1)
  case quantity => exact .of_entry (.inr ⟨hs, rfl⟩) (onQuantity_entry b hshape.1)
  case byteCount => exact .of_entry (.inl rfl) (onByteCount_entry b hshape.1)
  case modbusException => exact .raises b (.inl rfl)
  case firstCRC => exact .of_entry (.inl rfl) (onFirstCRC_entry b s)
  case secondCRC =>
    rcases onSecondCRC_entry b s with ⟨hb, hd, heq⟩ | ⟨k, heq⟩
    · rw [heq]
      exact .completes hs hb hd
    · rw [heq]
      exact .raises k (.inl rfl)
  all_goals exact .goesOn (onSlaveAddress_not_terminal b (resetBlock_state s))

theorem exec_feed_entry {b : Byte} {s t : State} (hr : ReachableShape s) (h : exec (.feed b) s = .next t) :
    FeedEntry b s t :=
  feedByte_entry hr (withLegalConfig_next h).2

/-- Settles O29: of the three things a FEED can do only the completion entry ends in `Complete`, and outside `Error`
the shape keeps `error` at 0. -/
theorem completeOnlyByMatchingCrc : Obligations.CompleteOnlyByMatchingCrc := by
  intro b s t hr h hc
  cases exec_feed_entry hr h with
  | goesOn hn => exact absurd hc (isTerminal_eq_false_iff.mp hn).1
  | completes hs hb hd =>
    have herr : s.error = 0 := by
      by_contra hne
      exact absurd (hs.symm.trans (hr.noStaleError hne)) (by decide)
    exact ⟨hs, hb, hd, herr, rfl⟩
  | raises k hu => cases hc

/-- Settles O31: of the three things a FEED can do only the error entry ends in `Error`, and it writes `error`, `state`
and the event output over the contents its arm was reached with. -/
theorem errorEntryChangesNothingElse : Obligations.ErrorEntryChangesNothingElse := by
  intro b s t hr h he
  cases exec_feed_entry hr h with
  | goesOn hn => exact absurd he (isTerminal_eq_false_iff.mp hn).2
  | completes => cases he
  | raises k hu =>
    refine ⟨_, hu, ?_⟩
    rcases hu with rfl | ⟨-, rfl⟩
    · rfl
    · rfl

end Sys2Proof.Machine
end

section
/-! The frame codec: every reader of 30_encoding.md stops exactly at its frame's end, and accepts only what the encoder
writes. -/

namespace Sys2Proof

/-! ## Readers that stop at their frame's end -/

/-- `read` takes exactly the bytes `used`, whatever follows them, and asks for more on anything shorter. -/
structure Delimits (read : List Byte → Except DecodeError (Instr × List Byte)) (used : List Byte) (i : Instr) :
    Prop where
  accepts : ∀ more, read (used ++ more) = .ok (i, more)
  needsAll : ∀ p b more, used = p ++ b :: more → read p = .error .truncatedFrame

/-- Readers that answer alike delimit alike: a row of the function-code map has the format's reader. -/
theorem Delimits.congr {read read' : List Byte → Except DecodeError (Instr × List Byte)} {used : List Byte}
    {i : Instr} (h : Delimits read' used i) (heq : ∀ bs, read bs = read' bs) : Delimits read used i where
  accepts more := (heq _).trans (h.accepts more)
  needsAll p b more hp := (heq p).trans (h.needsAll p b more hp)

section Formats

variable (e : Endianness) (crc : Word)

theorem delimits_readTail {n : Nat} (mk : List Byte → Word → Instr) {data : List Byte} (h : data.length = n) :
    Delimits (readTail e n mk) (data ++ [crcFirst e crc, crcSecond e crc]) (mk data crc) where
  accepts more := by
    subst h
    simp [readTail]
  needsAll p b more hp := by
    have hlen : p.length < n + 2 := by
      have := congrArg List.length hp
      simp at this
      omega
    have hshort : (p.drop n).length < 2 := by
      rw [List.length_drop]
      omega
    unfold readTail
    match p.drop n, hshort with
    | [], _ => rfl
    | [_], _ => rfl

theorem delimits_readBC (mk : Byte → List Byte → Word → Instr) {bc : Byte} {data : List Byte}
    (h : data.length = bc.toNat) :
    Delimits (readBC e mk) (bc :: (data ++ [crcFirst e crc, crcSecond e crc])) (mk bc data crc) where
  accepts := (delimits_readTail e crc (mk bc) h).accepts
  needsAll p b more hp := by
    cases p with
    | nil => rfl
    | cons _ p =>
      simp only [List.cons_append, List.cons.injEq] at hp
      obtain ⟨rfl, hp⟩ := hp
      exact (delimits_readTail e crc (mk bc) h).needsAll p b more hp

theorem delimits_readAQBD (mk : Word → Word → Byte → List Byte → Word → Instr) (start qty : Word) {bc : Byte}
    {data : List Byte} (h : data.length = bc.toNat) :
    Delimits (readAQBD e mk)
      (fieldFirst e start :: fieldSecond e start :: fieldFirst e qty :: fieldSecond e qty :: bc ::
        (data ++ [crcFirst e crc, crcSecond e crc])) (mk start qty bc data crc) where
  accepts more := by
    have htail := (delimits_readTail e crc (mk start qty bc) h).accepts more
    simpa [readAQBD] using htail
  needsAll p b more hp := by
    match p, hp with
    | [], _ => rfl
    | [_], _ => rfl
    | [_, _], _ => rfl
    | [_, _, _], _ => rfl
    | [_, _, _, _], _ => rfl
    | s1 :: s2 :: q1 :: q2 :: bc' :: p, hp =>
      simp only [List.cons_append, List.cons.injEq] at hp
      obtain ⟨rfl, rfl, rfl, rfl, rfl, hp⟩ := hp
      exact (delimits_readTail e crc (mk _ _ bc) h).needsAll p b more hp

theorem delimits_readAV (mk : Word → Byte → Byte → Word → Instr) (reg : Word) (v1 v2 : Byte) :
    Delimits (readAV e mk)
      [fieldFirst e reg, fieldSecond e reg, v1, v2, crcFirst e crc, crcSecond e crc] (mk reg v1 v2 crc) where
  accepts more := by simp [readAV]
  needsAll p b more hp := by
    match p, hp with
    | [], _ => rfl
    | [_], _ => rfl
    | [_, _], _ => rfl
    | [_, _, _], _ => rfl
    | [_, _, _, _], _ => rfl
    | [_, _, _, _, _], _ => rfl
    | _ :: _ :: _ :: _ :: _ :: _ :: p, hp => simp at hp

theorem delimits_readAQ (mk : Word → Word → Word → Instr) (start qty : Word) :
    Delimits (readAQ e mk)
      [fieldFirst e start, fieldSecond e start, fieldFirst e qty, fieldSecond e qty, crcFirst e crc, crcSecond e crc]
      (mk start qty crc) where
  accepts more := by simp [readAQ]
  needsAll p b more hp := by
    match p, hp with
    | [], _ => rfl
    | [_], _ => rfl
    | [_, _], _ => rfl
    | [_, _, _], _ => rfl
    | [_, _, _, _], _ => rfl
    | [_, _, _, _, _], _ => rfl
    | _ :: _ :: _ :: _ :: _ :: _ :: p, hp => simp at hp

theorem delimits_readEXC (mk : Byte → Instr) (code : Byte) : Delimits (readEXC mk) [code] (mk code) where
  accepts _ := rfl
  needsAll p b more hp := by
    cases p with
    | nil => rfl
    | cons _ p => simp at hp

end Formats

/-- Nothing follows the function code of an illegal frame (R239). -/
theorem delimits_illegal (i : Instr) : Delimits (fun bs => .ok (i, bs)) [] i where
  accepts _ := rfl
  needsAll p b more hp := by simp at hp

/-! ## Every encoded frame is delimited -/

/-- A frame kind is encoded under its own role only (R116). -/
theorem frameFor_eq_some {cfg : Config} {role : Role} {bs : List Byte} {item : FetchItem}
    (h : frameFor cfg role bs = some item) : cfg.role = role ∧ item = .frame bs := by
  unfold frameFor at h
  split at h
  next hrole => exact ⟨hrole, (Option.some.inj h).symm⟩
  next => cases h

/-- The bytes `bytes` are a frame of `i`: address, function code, and what the function code's reader takes. -/
def FrameOf (cfg : Config) (bytes : List Byte) (i : Instr) : Prop :=
  ∃ addr fc used, bytes = addr :: fc :: used ∧ Delimits (decodeBody cfg addr fc) used i

/-- What a reader of the row takes, the encoder having written it for the row's role. -/
theorem FrameOf.of_reader {cfg : Config} {role : Role} {addr fc : Byte} {used bytes : List Byte} {i : Instr}
    {read : List Byte → Except DecodeError (Instr × List Byte)}
    (h : frameFor cfg role (addr :: fc :: used) = some (.frame bytes))
    (hrow : ∀ rest, cfg.role = role → decodeBody cfg addr fc rest = read rest) (hd : Delimits read used i) :
    FrameOf cfg bytes i := by
  obtain ⟨hrole, hbytes⟩ := frameFor_eq_some h
  cases hbytes
  exact ⟨addr, fc, used, rfl, hd.congr fun bs => hrow bs hrole⟩

/-- An encoded frame is one: row by row of the function-code map (R110, R111). -/
theorem frameOf_encode {cfg : Config} {i : Instr} {bytes : List Byte} (hw : WellFormed i = true)
    (h : encode cfg i = some (.frame bytes)) : FrameOf cfg bytes i := by
  cases i with
  | rsp01 addr bc data crc => exact .of_reader h (decodeBody_rsp01 cfg addr) (delimits_readBC _ crc _ (eq_of_beq hw))
  | rsp02 addr bc data crc => exact .of_reader h (decodeBody_rsp02 cfg addr) (delimits_readBC _ crc _ (eq_of_beq hw))
  | rsp03 addr bc data crc => exact .of_reader h (decodeBody_rsp03 cfg addr) (delimits_readBC _ crc _ (eq_of_beq hw))
  | rsp04 addr bc data crc => exact .of_reader h (decodeBody_rsp04 cfg addr) (delimits_readBC _ crc _ (eq_of_beq hw))
  | rsp05 addr reg v1 v2 crc => exact .of_reader h (decodeBody_rsp05 cfg addr) (delimits_readAV _ crc _ reg v1 v2)
  | rsp06 addr reg v1 v2 crc => exact .of_reader h (decodeBody_rsp06 cfg addr) (delimits_readAV _ crc _ reg v1 v2)
  | rsp0F addr start qty crc => exact .of_reader h (decodeBody_rsp0F cfg addr) (delimits_readAQ _ crc _ start qty)
  | rsp10 addr start qty crc => exact .of_reader h (decodeBody_rsp10 cfg addr) (delimits_readAQ _ crc _ start qty)
  | rspExc addr fc code => exact .of_reader h (decodeBody_rspExc cfg addr · · hw) (delimits_readEXC _ code)
  | rspIllegal addr fc =>
    obtain ⟨hm, hs⟩ : fc.msb = false ∧ supportedCodes.contains fc = false := by simpa [WellFormed] using hw
    exact .of_reader h (fun bs hrole => by rw [decodeBody_illegal cfg addr bs hm hs, hrole]) (delimits_illegal _)
  | req01 addr start qty crc => exact .of_reader h (decodeBody_req01 cfg addr) (delimits_readAQ _ crc _ start qty)
  | req02 addr start qty crc => exact .of_reader h (decodeBody_req02 cfg addr) (delimits_readAQ _ crc _ start qty)
  | req03 addr start qty crc => exact .of_reader h (decodeBody_req03 cfg addr) (delimits_readAQ _ crc _ start qty)
  | req04 addr start qty crc => exact .of_reader h (decodeBody_req04 cfg addr) (delimits_readAQ _ crc _ start qty)
  | req05 addr reg v1 v2 crc => exact .of_reader h (decodeBody_req05 cfg addr) (delimits_readAV _ crc _ reg v1 v2)
  | req06 addr reg v1 v2 crc => exact .of_reader h (decodeBody_req06 cfg addr) (delimits_readAV _ crc _ reg v1 v2)
  | req0F addr start qty bc data crc =>
    exact .of_reader h (decodeBody_req0F cfg addr) (delimits_readAQBD _ crc _ start qty (eq_of_beq hw))
  | req10 addr start qty bc data crc =>
    exact .of_reader h (decodeBody_req10 cfg addr) (delimits_readAQBD _ crc _ start qty (eq_of_beq hw))
  | reqExc addr fc code => exact .of_reader h (decodeBody_reqExc cfg addr · · hw) (delimits_readEXC _ code)
  | reqIllegal addr fc =>
    obtain ⟨hm, hs⟩ : fc.msb = false ∧ supportedCodes.contains fc = false := by simpa [WellFormed] using hw
    exact .of_reader h (fun bs hrole => by rw [decodeBody_illegal cfg addr bs hm hs, hrole]) (delimits_illegal _)
  | _ => cases h

/-- A frame decodes to its instruction; with anything missing it is truncated, with anything more it is trailed. -/
theorem FrameOf.decode {cfg : Config} {bytes : List Byte} {i : Instr} (h : FrameOf cfg bytes i) :
    decode cfg (.frame bytes) = .ok i := by
  obtain ⟨addr, fc, used, rfl, hd⟩ := h
  have hbody := hd.accepts []
  rw [List.append_nil] at hbody
  simp [Sys2Proof.decode, decodeFrame, hbody]

theorem FrameOf.decode_trailing {cfg : Config} {bytes : List Byte} {i : Instr} (h : FrameOf cfg bytes i) (b : Byte)
    (more : List Byte) : Sys2Proof.decode cfg (.frame (bytes ++ b :: more)) = .error .trailingBytes := by
  obtain ⟨addr, fc, used, rfl, hd⟩ := h
  simp [Sys2Proof.decode, decodeFrame, hd.accepts (b :: more)]

theorem FrameOf.decode_truncated {cfg : Config} {p more : List Byte} {b : Byte} {i : Instr}
    (h : FrameOf cfg (p ++ b :: more) i) : Sys2Proof.decode cfg (.frame p) = .error .truncatedFrame := by
  obtain ⟨addr, fc, used, hp, hd⟩ := h
  match p, hp with
  | [], _ => rfl
  | [_], _ => rfl
  | a :: f :: q, hp =>
    simp only [List.cons_append, List.cons.injEq] at hp
    obtain ⟨rfl, rfl, hq⟩ := hp
    simp [Sys2Proof.decode, decodeFrame, hd.needsAll q b more hq.symm]

/-- What is encoded as no frame is a command of the port, or the bytes of a FEEDN: its operand stands there whole. -/
theorem decode_encode_command {cfg : Config} {i : Instr} {item : FetchItem} (h : encode cfg i = some item)
    (hitem : ∀ bytes, item ≠ .frame bytes) : decode cfg item = .ok i := by
  cases i with
  | nop | feed | reset | feedn => cases h; rfl
  | crcReset | crcFold | crcValue | bufAlloc | bufFree | bufRead | bufWrite | dispatchFor | advance
  | hSlaveAddress | hFunctionCode | hAddress | hQuantity | hByteCount | hData | hModbusException
  | hFirstCRC | hSecondCRC => cases h
  | _ => exact absurd (frameFor_eq_some h).2 (hitem _)

/-- Settles O54: a frame item is delimited, so its reader takes all of it; the port and FEEDN carry their operand
whole. -/
theorem decodeOfEncodeIsTheInstruction : Obligations.DecodeOfEncodeIsTheInstruction := by
  intro cfg i item hw h
  cases item with
  | frame bytes => exact (frameOf_encode hw h).decode
  | port | bulk => exact decode_encode_command h nofun

/-! ## Every frame that decodes is encoded -/

/-- `i` is well-formed, and the encoder writes it as the frame `addr`, `fc`, then all of `bs` but `rest`. -/
def EncodesTo (cfg : Config) (addr fc : Byte) (bs rest : List Byte) (i : Instr) : Prop :=
  WellFormed i = true ∧ ∃ used, bs = used ++ rest ∧ encode cfg i = some (.frame (addr :: fc :: used))

section Rows

variable {cfg : Config} {addr fc : Byte} {bs rest : List Byte} {i : Instr}

theorem encodesTo_BC {mk : Byte → List Byte → Word → Instr} (h : readBC cfg.endianness mk bs = .ok (i, rest))
    (hw : ∀ bc data crc, data.length = bc.toNat → WellFormed (mk bc data crc) = true)
    (henc : ∀ bc data crc, encode cfg (mk bc data crc) = some (.frame (wireBC cfg.endianness addr fc bc data crc))) :
    EncodesTo cfg addr fc bs rest i := by
  unfold readBC at h
  split at h
  next bc tail =>
    obtain ⟨data, c1, c2, rfl, hlen, rfl⟩ := readTail_ok h
    exact ⟨hw _ _ _ hlen, _, by simp, henc _ _ _⟩
  next => cases h

theorem encodesTo_AV {mk : Word → Byte → Byte → Word → Instr} (h : readAV cfg.endianness mk bs = .ok (i, rest))
    (hw : ∀ reg v1 v2 crc, WellFormed (mk reg v1 v2 crc) = true)
    (henc : ∀ reg v1 v2 crc, encode cfg (mk reg v1 v2 crc) =
      some (.frame (wireAV cfg.endianness addr fc reg v1 v2 crc))) :
    EncodesTo cfg addr fc bs rest i := by
  unfold readAV at h
  split at h <;> cases h
  exact ⟨hw _ _ _ _, _, by simp, henc _ _ _ _⟩

theorem encodesTo_AQ {mk : Word → Word → Word → Instr} (h : readAQ cfg.endianness mk bs = .ok (i, rest))
    (hw : ∀ start qty crc, WellFormed (mk start qty crc) = true)
    (henc : ∀ start qty crc, encode cfg (mk start qty crc) =
      some (.frame (wireAQ cfg.endianness addr fc start qty crc))) :
    EncodesTo cfg addr fc bs rest i := by
  unfold readAQ at h
  split at h <;> cases h
  exact ⟨hw _ _ _, _, by simp, henc _ _ _⟩

theorem encodesTo_AQBD {mk : Word → Word → Byte → List Byte → Word → Instr}
    (h : readAQBD cfg.endianness mk bs = .ok (i, rest))
    (hw : ∀ start qty bc data crc, data.length = bc.toNat → WellFormed (mk start qty bc data crc) = true)
    (henc : ∀ start qty bc data crc, encode cfg (mk start qty bc data crc) =
      some (.frame (wireAQBD cfg.endianness addr fc start qty bc data crc))) :
    EncodesTo cfg addr fc bs rest i := by
  unfold readAQBD at h
  split at h
  next s1 s2 q1 q2 bc tail =>
    obtain ⟨data, c1, c2, rfl, hlen, rfl⟩ := readTail_ok h
    exact ⟨hw _ _ _ _ _ hlen, _, by simp, henc _ _ _ _ _⟩
  next => cases h

theorem encodesTo_EXC {mk : Byte → Instr} (h : readEXC mk bs = .ok (i, rest))
    (hw : ∀ code, WellFormed (mk code) = true)
    (henc : ∀ code, encode cfg (mk code) = some (.frame (wireEXC addr fc code))) :
    EncodesTo cfg addr fc bs rest i := by
  unfold readEXC at h
  split at h <;> cases h
  exact ⟨hw _, _, List.singleton_append.symm, henc _⟩

/-- The rows of the Response role (R110). -/
theorem decodeBody_ok_response (hrole : cfg.role = .response) (hsup : supportedCodes.contains fc = true)
    (h : decodeBody cfg addr fc bs = .ok (i, rest)) : EncodesTo cfg addr fc bs rest i := by
  have hmem := List.contains_iff_mem.mp hsup
  simp only [supportedCodes, List.mem_cons, List.not_mem_nil, or_false] at hmem
  rcases hmem with rfl | rfl | rfl | rfl | rfl | rfl | rfl | rfl
  · exact encodesTo_BC ((decodeBody_rsp01 cfg addr bs hrole).symm.trans h)
      (fun _ _ _ hl => beq_iff_eq.mpr hl) (fun _ _ _ => if_pos hrole)
  · exact encodesTo_BC ((decodeBody_rsp02 cfg addr bs hrole).symm.trans h)
      (fun _ _ _ hl => beq_iff_eq.mpr hl) (fun _ _ _ => if_pos hrole)
  · exact encodesTo_BC ((decodeBody_rsp03 cfg addr bs hrole).symm.trans h)
      (fun _ _ _ hl => beq_iff_eq.mpr hl) (fun _ _ _ => if_pos hrole)
  · exact encodesTo_BC ((decodeBody_rsp04 cfg addr bs hrole).symm.trans h)
      (fun _ _ _ hl => beq_iff_eq.mpr hl) (fun _ _ _ => if_pos hrole)
  · exact encodesTo_AV ((decodeBody_rsp05 cfg addr bs hrole).symm.trans h) (fun _ _ _ _ => rfl)
      (fun _ _ _ _ => if_pos hrole)
  · exact encodesTo_AV ((decodeBody_rsp06 cfg addr bs hrole).symm.trans h) (fun _ _ _ _ => rfl)
      (fun _ _ _ _ => if_pos hrole)
  · exact encodesTo_AQ ((decodeBody_rsp0F cfg addr bs hrole).symm.trans h) (fun _ _ _ => rfl)
      (fun _ _ _ => if_pos hrole)
  · exact encodesTo_AQ ((decodeBody_rsp10 cfg addr bs hrole).symm.trans h) (fun _ _ _ => rfl)
      (fun _ _ _ => if_pos hrole)

/-- The rows of the Request role (R110). -/
theorem decodeBody_ok_request (hrole : cfg.role = .request) (hsup : supportedCodes.contains fc = true)
    (h : decodeBody cfg addr fc bs = .ok (i, rest)) : EncodesTo cfg addr fc bs rest i := by
  have hmem := List.contains_iff_mem.mp hsup
  simp only [supportedCodes, List.mem_cons, List.not_mem_nil, or_false] at hmem
  rcases hmem with rfl | rfl | rfl | rfl | rfl | rfl | rfl | rfl
  · exact encodesTo_AQ ((decodeBody_req01 cfg addr bs hrole).symm.trans h) (fun _ _ _ => rfl)
      (fun _ _ _ => if_pos hrole)
  · exact encodesTo_AQ ((decodeBody_req02 cfg addr bs hrole).symm.trans h) (fun _ _ _ => rfl)
      (fun _ _ _ => if_pos hrole)
  · exact encodesTo_AQ ((decodeBody_req03 cfg addr bs hrole).symm.trans h) (fun _ _ _ => rfl)
      (fun _ _ _ => if_pos hrole)
  · exact encodesTo_AQ ((decodeBody_req04 cfg addr bs hrole).symm.trans h) (fun _ _ _ => rfl)
      (fun _ _ _ => if_pos hrole)
  · exact encodesTo_AV ((decodeBody_req05 cfg addr bs hrole).symm.trans h) (fun _ _ _ _ => rfl)
      (fun _ _ _ _ => if_pos hrole)
  · exact encodesTo_AV ((decodeBody_req06 cfg addr bs hrole).symm.trans h) (fun _ _ _ _ => rfl)
      (fun _ _ _ _ => if_pos hrole)
  · exact encodesTo_AQBD ((decodeBody_req0F cfg addr bs hrole).symm.trans h)
      (fun _ _ _ _ _ hl => beq_iff_eq.mpr hl) (fun _ _ _ _ _ => if_pos hrole)
  · exact encodesTo_AQBD ((decodeBody_req10 cfg addr bs hrole).symm.trans h)
      (fun _ _ _ _ _ hl => beq_iff_eq.mpr hl) (fun _ _ _ _ _ => if_pos hrole)

/-- Class by class of the function-code map (R111): an exception, one of the eight rows, or an illegal code. -/
theorem decodeBody_ok (h : decodeBody cfg addr fc bs = .ok (i, rest)) : EncodesTo cfg addr fc bs rest i := by
  by_cases hm : fc.msb = true
  · cases hrole : cfg.role with
    | response =>
      exact encodesTo_EXC ((decodeBody_rspExc cfg addr bs hrole hm).symm.trans h) (fun _ => hm) (fun _ => if_pos hrole)
    | request =>
      exact encodesTo_EXC ((decodeBody_reqExc cfg addr bs hrole hm).symm.trans h) (fun _ => hm) (fun _ => if_pos hrole)
  · rw [Bool.not_eq_true] at hm
    by_cases hsup : supportedCodes.contains fc = true
    · cases hrole : cfg.role with
      | response => exact decodeBody_ok_response hrole hsup h
      | request => exact decodeBody_ok_request hrole hsup h
    · rw [Bool.not_eq_true] at hsup
      rw [decodeBody_illegal cfg addr bs hm hsup] at h
      cases h
      have hw : (!fc.msb && !supportedCodes.contains fc) = true := by rw [hm, hsup]; rfl
      cases hrole : cfg.role with
      | response => exact ⟨hw, [], rfl, if_pos hrole⟩
      | request => exact ⟨hw, [], rfl, if_pos hrole⟩

end Rows

/-- A frame item that decodes: an address, a function code, and a body that its reader takes whole. -/
theorem decode_frame_ok {cfg : Config} {bytes : List Byte} {i : Instr} (h : decode cfg (.frame bytes) = .ok i) :
    ∃ addr fc body, bytes = addr :: fc :: body ∧ decodeBody cfg addr fc body = .ok (i, []) := by
  match bytes, h with
  | addr :: fc :: body, h =>
    refine ⟨addr, fc, body, rfl, ?_⟩
    simp only [decode, decodeFrame] at h
    split at h <;> cases h
    assumption

/-- Settles O55: class by class, what a reader accepts is what the encoder writes. -/
theorem encodeOfDecodeIsTheFrame : Obligations.EncodeOfDecodeIsTheFrame := by
  intro cfg bytes i h
  obtain ⟨addr, fc, body, rfl, hbody⟩ := decode_frame_ok h
  obtain ⟨hw, used, hused, henc⟩ := decodeBody_ok hbody
  rw [List.append_nil] at hused
  exact ⟨hw, hused ▸ henc⟩

/-- A frame that decodes is delimited. -/
theorem frameOf_decode {cfg : Config} {bytes : List Byte} {i : Instr} (h : decode cfg (.frame bytes) = .ok i) :
    FrameOf cfg bytes i := by
  obtain ⟨hw, henc⟩ := encodeOfDecodeIsTheFrame cfg bytes i h
  exact frameOf_encode hw henc

/-! ## What is no instruction, and the three classes of function codes -/

namespace Machine

/-- Settles O47: `step` asks the decoder and hands its reason on; a frame that decodes is delimited, so a strict initial
part of it is truncated and an extension trailed. -/
theorem stepRefusesWhatIsNoInstruction : Obligations.StepRefusesWhatIsNoInstruction := by
  refine ⟨fun s hd hs => ?_, fun s item rest e hd hs he => ?_, fun c din => rfl, fun c i bytes b more h => ?_,
    fun c i bytes b more h => ?_⟩
  · simp [step, hd, hs]
  · simp [step, hd, hs, he]
  · exact (frameOf_decode h).decode_truncated
  · exact (frameOf_decode h).decode_trailing b more

end Machine

/-- A supported code opens a longer frame than its two bytes. -/
theorem decode_supported_short (cfg : Config) (addr : Byte) {fc : Byte} (h : supportedCodes.contains fc = true) :
    decode cfg (.frame [addr, fc]) = .error .truncatedFrame := by
  have hmem := List.contains_iff_mem.mp h
  simp only [supportedCodes, List.mem_cons, List.not_mem_nil, or_false] at hmem
  simp only [decode, decodeFrame, decodeBody]
  cases cfg.role <;> rcases hmem with rfl | rfl | rfl | rfl | rfl | rfl | rfl | rfl <;> rfl

/-- Settles O56: bit 7 is asked first, then the eight codes, whatever the role; the illegal codes are counted. -/
theorem functionCodesFallInThreeClasses : Obligations.FunctionCodesFallInThreeClasses := by
  refine ⟨fun cfg addr fc code hm => ?_, fun cfg addr fc hm hs => ?_,
    fun cfg addr fc => decode_supported_short cfg addr, rfl⟩
  · cases hrole : cfg.role with
    | response => simp [decode, decodeFrame, decodeBody_rspExc cfg addr [code] hrole hm, readEXC]
    | request => simp [decode, decodeFrame, decodeBody_reqExc cfg addr [code] hrole hm, readEXC]
  · cases hrole : cfg.role with
    | response => simp [decode, decodeFrame, decodeBody_illegal cfg addr [] hm hs, hrole]
    | request => simp [decode, decodeFrame, decodeBody_illegal cfg addr [] hm hs, hrole]

/-- Settles O58: each sample is decoded by running the decoder on it. -/
theorem sampleFramesDecode : Obligations.SampleFramesDecode := ⟨rfl, rfl, rfl, rfl, rfl⟩

end Sys2Proof
end

section
/-! The payload buffer: the index law of R76 and R166, and what stores one after another leave. -/

namespace Sys2Proof.Machine

/-! ## The index law -/

/-- What `rcnt` holds before the `k`-th payload byte is stored (R166). -/
def payloadCounter (c : Config) (k : Nat) : Nat :=
  if c.swapRegisters then c.registerSize.toNat - k % c.registerSize.toNat else 0

/-- The `r`-th byte of the `q`-th register (R76). -/
theorem payloadIndex_mul_add {c : Config} (hs : c.swapRegisters = true) {q r : Nat} (hr : r < c.registerSize.toNat) :
    payloadIndex c (c.registerSize.toNat * q + r) = c.registerSize.toNat * q + (c.registerSize.toNat - 1 - r) := by
  rw [payloadIndex_swap hs, Nat.mul_add_div (by omega), Nat.div_eq_of_lt hr, Nat.mul_add_mod, Nat.mod_eq_of_lt hr,
    Nat.add_zero]

theorem payloadCounter_mul_add {c : Config} (hs : c.swapRegisters = true) {q r : Nat}
    (hr : r < c.registerSize.toNat) :
    payloadCounter c (c.registerSize.toNat * q + r) = c.registerSize.toNat - r := by
  rw [payloadCounter, if_pos hs, Nat.mul_add_mod, Nat.mod_eq_of_lt hr]

/-- In swap mode every payload position is a byte of a register. -/
theorem exists_register {c : Config} (hl : configLegal c = true) (hs : c.swapRegisters = true) (k : Nat) :
    ∃ q r, r < c.registerSize.toNat ∧ k = c.registerSize.toNat * q + r :=
  ⟨_, _, Nat.mod_lt k (registerSize_pos hl hs), (Nat.div_add_mod k _).symm⟩

/-- Mirroring each register twice gives every byte back its place. -/
theorem payloadIndex_involutive {c : Config} (hl : configLegal c = true) : Function.Involutive (payloadIndex c) := by
  intro k
  cases hs : c.swapRegisters with
  | false => simp [payloadIndex_linear hs]
  | true =>
    obtain ⟨q, r, hr, rfl⟩ := exists_register hl hs k
    rw [payloadIndex_mul_add hs hr, payloadIndex_mul_add hs (by omega)]
    omega

/-- A payload of whole registers is a permutation of its own indices. -/
theorem payloadIndex_lt {c : Config} (hl : configLegal c = true) {n k : Nat} (hfit : PayloadFits c n) (hk : k < n) :
    payloadIndex c k < n := by
  cases hs : c.swapRegisters with
  | false => rwa [payloadIndex_linear hs]
  | true =>
    obtain ⟨m, rfl⟩ := hfit hs
    obtain ⟨q, r, hr, rfl⟩ := exists_register hl hs k
    have hq : q < m := Nat.lt_of_mul_lt_mul_left (Nat.lt_of_le_of_lt (Nat.le_add_right _ r) hk)
    calc payloadIndex c (c.registerSize.toNat * q + r)
      _ = c.registerSize.toNat * q + (c.registerSize.toNat - 1 - r) := payloadIndex_mul_add hs hr
      _ < c.registerSize.toNat * (q + 1) := by rw [Nat.mul_succ]; omega
      _ ≤ c.registerSize.toNat * m := Nat.mul_le_mul_left _ hq

/-! ## One store -/

/-- `put(v)` inside the allocation (R165): the byte stored and the cursor moved. -/
def storeByte (v : Byte) (s : State) : State := moveCursor { s with buf := memWrite s.buf s.wptr v }

theorem putByte_eq_storeByte {v : Byte} {s : State} (h : s.wptr < s.dataLen) : putByte v s = .next (storeByte v s) :=
  putByte_of_inside h

@[simp] theorem storeByte_buf (v : Byte) (s : State) : (storeByte v s).buf = memWrite s.buf s.wptr v :=
  moveCursor_buf _

/-- A store writes the memory, the cursor and the counter, and nothing else. -/
theorem storeByte_frame (v : Byte) (s : State) :
    storeByte v s = { s with
      buf := (storeByte v s).buf, wptr := (storeByte v s).wptr, rcnt := (storeByte v s).rcnt } := by
  unfold storeByte moveCursor
  split
  · split <;> rfl
  · rfl

@[simp] theorem storeByte_cfg (v : Byte) (s : State) : (storeByte v s).cfg = s.cfg := moveCursor_cfg _
@[simp] theorem storeByte_dataLen (v : Byte) (s : State) : (storeByte v s).dataLen = s.dataLen := moveCursor_dataLen _
@[simp] theorem storeByte_bufAlloc (v : Byte) (s : State) : (storeByte v s).bufAlloc = s.bufAlloc :=
  moveCursor_bufAlloc _

@[simp] theorem storeByte_dataToReceive (v : Byte) (s : State) : (storeByte v s).dataToReceive = s.dataToReceive :=
  moveCursor_dataToReceive _

theorem storeByte_linear (v : Byte) {s : State} (h : s.cfg.swapRegisters = false) :
    (storeByte v s).wptr = s.wptr + 1 ∧ (storeByte v s).rcnt = s.rcnt := by
  simp [storeByte, moveCursor, h]

/-- At a register's end the cursor jumps over the next register (R165). -/
theorem storeByte_swap_end (v : Byte) {s : State} (h : s.cfg.swapRegisters = true) (hr : s.rcnt = 1) :
    (storeByte v s).wptr = s.wptr + 2 * s.cfg.registerSize.toNat - 1 ∧
      (storeByte v s).rcnt = s.cfg.registerSize.toNat := by
  simp [storeByte, moveCursor, h, hr]

/-- Inside a register it moves down (R165); a counter at 0 has no value there (log entry 2). -/
theorem storeByte_swap_inside (v : Byte) {s : State} (h : s.cfg.swapRegisters = true) (hr : s.rcnt ≠ 1)
    (hw : 0 < s.wptr) (hr0 : 0 < s.rcnt) :
    (storeByte v s).wptr + 1 = s.wptr ∧ (storeByte v s).rcnt + 1 = s.rcnt := by
  simp only [storeByte, moveCursor, h, hr, if_true, if_false]
  rw [decrement_of_pos _ hw, decrement_of_pos _ hr0]
  omega

/-- The cursor and the counter of byte `k` become those of byte `k + 1` (R166). -/
theorem storeByte_follows_indexLaw (v : Byte) {s : State} {k : Nat} (hl : configLegal s.cfg = true)
    (hw : s.wptr = payloadIndex s.cfg k) (hr : s.rcnt = payloadCounter s.cfg k) :
    (storeByte v s).wptr = payloadIndex s.cfg (k + 1) ∧ (storeByte v s).rcnt = payloadCounter s.cfg (k + 1) := by
  cases hs : s.cfg.swapRegisters with
  | false =>
    obtain ⟨hw', hr'⟩ := storeByte_linear v hs
    rw [hw', hr', hw, hr]
    simp [payloadCounter, hs]
  | true =>
    obtain ⟨q, r, hrN, rfl⟩ := exists_register hl hs k
    rw [payloadIndex_mul_add hs hrN] at hw
    rw [payloadCounter_mul_add hs hrN] at hr
    rcases Nat.lt_or_ge (r + 1) s.cfg.registerSize.toNat with hin | hend
    · obtain ⟨hw', hr'⟩ := storeByte_swap_inside v hs (by omega) (by omega) (by omega)
      rw [Nat.add_assoc, payloadIndex_mul_add hs hin, payloadCounter_mul_add hs hin]
      omega
    · have hnext : s.cfg.registerSize.toNat * q + r + 1 = s.cfg.registerSize.toNat * (q + 1) + 0 := by
        rw [Nat.mul_succ]
        omega
      obtain ⟨hw', hr'⟩ := storeByte_swap_end v hs (by omega)
      rw [hnext, payloadIndex_mul_add hs (by omega), payloadCounter_mul_add hs (by omega), hw', hr', Nat.mul_succ]
      omega

/-! ## Stores one after another -/

/-- The payload bytes `vs` and no others are in the buffer, each at its index; the cursor stands at the next (R166). -/
structure PayloadStored (s : State) (vs : List Byte) : Prop where
  cursor : s.wptr = payloadIndex s.cfg vs.length
  counter : s.rcnt = payloadCounter s.cfg vs.length
  canonical : Memory.wf s.buf = true
  inside : ∀ j, j < vs.length → payloadIndex s.cfg j < s.dataLen
  bytes : ∀ j (h : j < vs.length), memRead s.buf (payloadIndex s.cfg j) = some vs[j]
  nothingElse : ∀ i, (∀ j, j < vs.length → payloadIndex s.cfg j ≠ i) → memRead s.buf i = none

/-- The five registers of the payload buffer and its contents (R52 to R56). -/
def bufferOf (s : State) : Bool × Nat × Nat × Nat × Memory := (s.bufAlloc, s.dataLen, s.wptr, s.rcnt, s.buf)

/-- The payload is a matter of the buffer and the configuration alone. -/
theorem PayloadStored.congr {s t : State} {vs : List Byte} (h : PayloadStored s vs) (hcfg : t.cfg = s.cfg)
    (hbuf : bufferOf t = bufferOf s) : PayloadStored t vs := by
  simp only [bufferOf, Prod.mk.injEq] at hbuf
  obtain ⟨-, hlen, hw, hr, hm⟩ := hbuf
  refine ⟨?_, ?_, ?_, ?_, ?_, ?_⟩
  · rw [hw, hcfg, h.cursor]
  · rw [hr, hcfg, h.counter]
  · rw [hm, h.canonical]
  · rw [hcfg, hlen]
    exact h.inside
  · rw [hcfg, hm]
    exact h.bytes
  · rw [hcfg, hm]
    exact h.nothingElse

/-- An allocation holds nothing yet. -/
theorem payloadStored_alloc {s : State} (hl : configLegal s.cfg = true) (n : Nat) :
    PayloadStored (allocBuffer n s) [] where
  cursor := by
    cases hs : s.cfg.swapRegisters with
    | false => simp [hs]
    | true =>
      have h0 := payloadIndex_mul_add (q := 0) hs (registerSize_pos hl hs)
      simpa [hs] using h0.symm
  counter := by simp [payloadCounter]
  canonical := rfl
  inside _ h := absurd h (Nat.not_lt_zero _)
  bytes _ h := absurd h (Nat.not_lt_zero _)
  nothingElse _ _ := rfl

/-- A store inside the allocation adds one byte. -/
theorem PayloadStored.store {s : State} {vs : List Byte} (h : PayloadStored s vs) (hl : configLegal s.cfg = true)
    (hin : s.wptr < s.dataLen) (v : Byte) : PayloadStored (storeByte v s) (vs ++ [v]) := by
  obtain ⟨hw, hr⟩ := storeByte_follows_indexLaw v hl h.cursor h.counter
  have hlen : (vs ++ [v]).length = vs.length + 1 := List.length_append
  refine ⟨?_, ?_, ?_, ?_, ?_, ?_⟩
  · rw [hlen, storeByte_cfg, hw]
  · rw [hlen, storeByte_cfg, hr]
  · rw [storeByte_buf]
    exact memWrite_wf h.canonical _ _
  · intro j hj
    rw [storeByte_cfg, storeByte_dataLen]
    rcases Nat.lt_or_eq_of_le (Nat.le_of_lt_succ (hlen ▸ hj)) with hlt | rfl
    · exact h.inside j hlt
    · exact h.cursor ▸ hin
  · intro j hj
    rw [storeByte_cfg, storeByte_buf, h.cursor]
    rcases Nat.lt_or_eq_of_le (Nat.le_of_lt_succ (hlen ▸ hj)) with hlt | rfl
    · have hne : payloadIndex s.cfg j ≠ payloadIndex s.cfg vs.length := fun heq =>
        Nat.ne_of_lt hlt ((payloadIndex_involutive hl).injective heq)
      rw [memRead_memWrite_ne _ _ hne, h.bytes j hlt, List.getElem_append_left hlt]
    · rw [memRead_memWrite_same, List.getElem_concat_length rfl]
  · intro i hi
    rw [storeByte_cfg] at hi
    rw [storeByte_buf, h.cursor, memRead_memWrite_ne _ _ (hi vs.length (by omega)).symm]
    exact h.nothingElse i fun j hj => hi j (by omega)

/-- The first `k` payload bytes, read at their indices. -/
def storedBytes (s : State) (k : Nat) : List Byte :=
  (List.range k).map fun j => (memRead s.buf (payloadIndex s.cfg j)).getD 0

@[simp] theorem storedBytes_length (s : State) (k : Nat) : (storedBytes s k).length = k := by simp [storedBytes]

/-- The payload bytes stored are the buffer's contents in the sense of R26 and R166. -/
theorem bufferHolds_iff_payloadStored {s : State} {k : Nat} (hwf : Memory.wf s.buf = true) :
    BufferHolds s k ↔ s.bufAlloc = true ∧ (s.dataLen = if s.byteCount = 0 then 2 else s.byteCount.toNat) ∧
      ∃ vs, vs.length = k ∧ PayloadStored s vs := by
  constructor
  · intro h
    have hlen := storedBytes_length s k
    refine ⟨h.allocated, h.size, storedBytes s k, hlen, ?_, ?_, hwf, ?_, ?_, ?_⟩
    · rw [hlen, h.cursor]
    · rw [hlen, h.counter, payloadCounter]
    · rw [hlen]
      exact h.inside
    · intro j hj
      obtain ⟨b, hb⟩ := Option.isSome_iff_exists.mp (h.written j (hlen ▸ hj))
      simp [storedBytes, hb]
    · intro i hi
      rw [← Option.not_isSome_iff_eq_none]
      intro hsome
      obtain ⟨j, hj, hji⟩ := h.onlyThose i hsome
      exact hi j (hlen.symm ▸ hj) hji
  · rintro ⟨halloc, hsize, vs, rfl, h⟩
    refine ⟨halloc, hsize, h.cursor, h.counter, h.inside, fun j hj => ?_, fun i hi => ?_⟩
    · rw [h.bytes j hj]
      rfl
    · by_contra hnone
      push Not at hnone
      rw [h.nothingElse i hnone] at hi
      cases hi

/-- BUF.WRITE of bytes that all fall inside the allocation stores them in order. -/
theorem writeAll_stores {vs : List Byte} : ∀ {s : State} {ws : List Byte}, configLegal s.cfg = true →
    PayloadStored s ws → (∀ j, j < ws.length + vs.length → payloadIndex s.cfg j < s.dataLen) →
    ∃ t, writeAll vs s = .next t ∧ PayloadStored t (ws ++ vs) ∧ t.cfg = s.cfg ∧ t.dataLen = s.dataLen := by
  induction vs with
  | nil => exact fun _ h _ => ⟨_, rfl, by rwa [List.append_nil], rfl, rfl⟩
  | cons v vs ih =>
    intro s ws hl h hin
    have hput : s.wptr < s.dataLen := h.cursor ▸ hin ws.length (by simp)
    have hexec : exec (.bufWrite v) s = .next (storeByte v s) :=
      (withLegalConfig_of_legal hl).trans (putByte_eq_storeByte hput)
    obtain ⟨t, ht, hstored, hcfg, hdata⟩ := ih (s := storeByte v s) (ws := ws ++ [v]) (by simpa using hl)
      (h.store hl hput v) (fun j hj => by simpa using hin j (by simp at hj ⊢; omega))
    refine ⟨t, ?_, by simpa using hstored, by simpa using hcfg, by simpa using hdata⟩
    rw [writeAll, hexec]
    exact ht

/-- BUF.ALLOC and then BUF.WRITE of bytes that all fall inside the allocation. -/
theorem alloc_writeAll {s : State} (hl : configLegal s.cfg = true) (size : Byte) {vs : List Byte}
    (hin : ∀ j, j < vs.length → payloadIndex s.cfg j < size.toNat) :
    ∃ u t, exec (.bufAlloc size) s = .next u ∧ writeAll vs u = .next t ∧ PayloadStored t vs ∧ t.cfg = s.cfg ∧
      t.dataLen = size.toNat := by
  obtain ⟨t, ht, hstored, hcfg, hlen⟩ := writeAll_stores (s := allocBuffer size.toNat s) hl
    (payloadStored_alloc hl size.toNat) (fun j hj => hin j (by simpa using hj))
  exact ⟨_, t, withLegalConfig_of_legal hl, ht, hstored, hcfg, hlen⟩

/-! ## The buffer's operations as instructions -/

/-- Settles O10: allocation and freeing are record updates. -/
theorem bufAllocAndFreeSetTheBuffer : Obligations.BufAllocAndFreeSetTheBuffer :=
  ⟨fun _ _ hl => withLegalConfig_of_legal hl, fun _ hl => withLegalConfig_of_legal hl⟩

/-- Settles O11: outside the allocation `put` faults; inside it is one store, whose cursor has three ways to move. -/
theorem bufWriteStoresAtTheCursor : Obligations.BufWriteStoresAtTheCursor := by
  intro v s hl
  have hexec : exec (.bufWrite v) s = putByte v s := withLegalConfig_of_legal hl
  rw [hexec]
  refine ⟨putByte_of_outside, fun hin => ⟨storeByte v s, putByte_eq_storeByte hin, ?_, fun i hi => ?_,
    storeByte_frame v s, storeByte_linear v, storeByte_swap_end v, storeByte_swap_inside v⟩⟩
  · rw [storeByte_buf, memRead_memWrite_same]
  · rw [storeByte_buf, memRead_memWrite_ne _ _ hi]

/-- Settles O12: the three answers of a payload read. -/
theorem bufReadReturnsWrittenBytes : Obligations.BufReadReturnsWrittenBytes := by
  intro i s hl
  have hexec : exec (.bufRead i) s = readByte i s := withLegalConfig_of_legal hl
  rw [hexec, readByte]
  refine ⟨fun b hi hb => ?_, fun hi hb => ?_, fun hi => if_pos hi⟩
  · rw [if_neg (Nat.not_le.mpr hi), hb]
    rfl
  · rw [if_neg (Nat.not_le.mpr hi), hb]

/-- Settles O13: whole registers keep every byte inside the allocation, and then the stores follow the index law. -/
theorem writesFollowTheIndexLaw : Obligations.WritesFollowTheIndexLaw := by
  intro s size vs hl hle hfit
  obtain ⟨u, t, hu, ht, hstored, hcfg, hlen⟩ := alloc_writeAll hl size (vs := vs)
    fun j hj => payloadIndex_lt hl hfit (Nat.lt_of_lt_of_le hj hle)
  have hbytes := hstored.bytes
  have hnone := hstored.nothingElse
  rw [hcfg] at hbytes hnone
  exact ⟨u, t, hu, ht, hbytes, hnone, hcfg ▸ hstored.cursor, hcfg ▸ hstored.counter, hlen, hstored.canonical⟩

/-- Settles O14: the whole registers fit, and the mirrored index of the next byte is at or past the end. -/
theorem swapOverrunsAtTheIncompleteRegister : Obligations.SwapOverrunsAtTheIncompleteRegister := by
  intro s size vs hl hs hndvd hvs
  have hN := registerSize_pos hl hs
  have hfit : PayloadFits s.cfg vs.length := fun _ => ⟨_, hvs⟩
  have hle : vs.length ≤ size.toNat := hvs ▸ Nat.mul_div_le _ _
  obtain ⟨u, t, hu, ht, hstored, hcfg, hlen⟩ := alloc_writeAll hl size (vs := vs)
    fun j hj => Nat.lt_of_lt_of_le (payloadIndex_lt hl hfit hj) hle
  refine ⟨u, t, hu, ht, fun v => ?_⟩
  have hcursor : t.wptr = s.cfg.registerSize.toNat * (size.toNat / s.cfg.registerSize.toNat)
      + (s.cfg.registerSize.toNat - 1) := by
    rw [hstored.cursor, hcfg, hvs]
    exact payloadIndex_mul_add (r := 0) hs hN
  have hout : t.dataLen ≤ t.wptr := by
    have hsplit := Nat.div_add_mod size.toNat s.cfg.registerSize.toNat
    have hmod := Nat.mod_lt size.toNat hN
    rw [hlen, hcursor]
    omega
  exact (withLegalConfig_of_legal (hcfg ▸ hl)).trans (putByte_of_outside hout)

end Sys2Proof.Machine
end

section
/-! What every instruction and every step keeps: the configuration, the script, the memory's canonical form, and the
bound of one event a step. -/

namespace Sys2Proof.Machine

/-- What `t` shows of having come from `s` by one operation: an event was added only on entering a terminal state. -/
structure Effect (s t : State) : Prop where
  cfg : t.cfg = s.cfg
  script : t.script = s.script
  events : t.events = s.events ∨ (t.state = .complete ∧ t.events = s.events ++ [.onComplete]) ∨
    (t.state = .error ∧ t.events = s.events ++ [.onError])
  canonical : Memory.wf s.buf = true → Memory.wf t.buf = true

theorem Effect.refl (s : State) : Effect s s := ⟨rfl, rfl, .inl rfl, id⟩

/-- Operations one after another, when the first of them adds no event. -/
theorem Effect.trans {s u t : State} (h : Effect s u) (hq : u.events = s.events) (h' : Effect u t) : Effect s t where
  cfg := h'.cfg.trans h.cfg
  script := h'.script.trans h.script
  events := hq ▸ h'.events
  canonical hwf := h'.canonical (h.canonical hwf)

theorem Effect.ite {s a b : State} {p : Prop} [Decidable p] (ha : Effect s a) (hb : Effect s b) :
    Effect s (if p then a else b) := by
  split
  · exact ha
  · exact hb

/-- At most one event was added (R17). -/
theorem Effect.atMostOneEvent {s t : State} (h : Effect s t) :
    t.events = s.events ∨ t.events = s.events ++ [.onComplete] ∨ t.events = s.events ++ [.onError] :=
  h.events.imp_right (Or.imp And.right And.right)

/-! ## The engine's handlers -/

theorem effect_raiseError (k : Byte) (s : State) : Effect s (raiseError k s) :=
  ⟨rfl, rfl, .inr (.inr ⟨rfl, rfl⟩), id⟩

theorem effect_completeFrame (s : State) : Effect s (completeFrame s) := ⟨rfl, rfl, .inr (.inl ⟨rfl, rfl⟩), id⟩

theorem effect_resetBlock (s : State) : Effect s (resetBlock s) := ⟨rfl, rfl, .inl rfl, fun _ => rfl⟩

theorem effect_storeByte (v : Byte) (s : State) : Effect s (storeByte v s) := by
  have hwf : Memory.wf s.buf = true → Memory.wf (storeByte v s).buf = true := fun h => by
    rw [storeByte_buf]
    exact memWrite_wf h _ _
  rw [storeByte_frame]
  exact ⟨rfl, rfl, .inl rfl, hwf⟩

theorem effect_onSlaveAddress (b : Byte) (s : State) : Effect s (onSlaveAddress b s) :=
  .ite ⟨rfl, rfl, .inl rfl, id⟩ (.refl s)

theorem effect_onFunctionCode (b : Byte) (s : State) : Effect s (onFunctionCode b s) :=
  .ite ⟨rfl, rfl, .inl rfl, id⟩ (.ite ⟨rfl, rfl, .inl rfl, id⟩ (effect_raiseError _ s))

theorem effect_onAddress (b : Byte) (s : State) : Effect s (onAddress b s) := ⟨rfl, rfl, .inl rfl, id⟩

theorem effect_onQuantity (b : Byte) (s : State) : Effect s (onQuantity b s) :=
  .ite ⟨rfl, rfl, .inr (.inr ⟨rfl, rfl⟩), id⟩ ⟨rfl, rfl, .inl rfl, id⟩

theorem effect_onByteCount (b : Byte) (s : State) : Effect s (onByteCount b s) :=
  .ite (effect_raiseError _ s) (.ite (effect_raiseError _ s) ⟨rfl, rfl, .inl rfl, id⟩)

theorem effect_enterData (s : State) : Effect s (enterData s) :=
  .ite (.refl s) ⟨rfl, rfl, .inl rfl, fun _ => rfl⟩

section Fields

variable (s : State)

@[simp] theorem enterData_cfg : (enterData s).cfg = s.cfg := by
  unfold enterData; split <;> rfl
@[simp] theorem enterData_functionCode : (enterData s).functionCode = s.functionCode := by
  unfold enterData; split <;> rfl
@[simp] theorem enterData_byteCount : (enterData s).byteCount = s.byteCount := by
  unfold enterData; split <;> rfl
@[simp] theorem enterData_crc : (enterData s).crc = s.crc := by
  unfold enterData; split <;> rfl
@[simp] theorem enterData_error : (enterData s).error = s.error := by
  unfold enterData; split <;> rfl
@[simp] theorem enterData_state : (enterData s).state = s.state := by
  unfold enterData; split <;> rfl
@[simp] theorem enterData_phaseIdx : (enterData s).phaseIdx = s.phaseIdx := by
  unfold enterData; split <;> rfl
@[simp] theorem enterData_events : (enterData s).events = s.events := by
  unfold enterData; split <;> rfl

end Fields

theorem storeByte_events (v : Byte) (s : State) : (storeByte v s).events = s.events := moveCursor_events _

theorem effect_finishData (b : Byte) (s : State) : Effect s (finishData b s) :=
  .ite ⟨rfl, rfl, .inl rfl, id⟩ ⟨rfl, rfl, .inl rfl, id⟩

theorem effect_onData {b : Byte} {s t : State} (h : onData b s = .next t) : Effect s t := by
  obtain ⟨-, rfl⟩ := onData_next h
  exact (effect_enterData s).trans (enterData_events s)
    ((effect_storeByte b _).trans (storeByte_events b _) (effect_finishData b _))

theorem effect_onFirstCRC (b : Byte) (s : State) : Effect s (onFirstCRC b s) :=
  .ite ⟨rfl, rfl, .inl rfl, id⟩ (effect_raiseError _ s)

theorem effect_onSecondCRC (b : Byte) (s : State) : Effect s (onSecondCRC b s) :=
  .ite (.ite (effect_completeFrame s) (effect_raiseError _ s)) (effect_raiseError _ s)

/-- Handler by handler (R195); the implicit reset before a new frame adds no event (R196). -/
theorem effect_feedByte {b : Byte} {s t : State} (h : feedByte b s = .next t) : Effect s t := by
  cases hs : s.state <;> simp only [feedByte, hs] at h
  case data => exact effect_onData h
  all_goals cases h
  case slaveAddress => exact effect_onSlaveAddress b s
  case functionCode => exact effect_onFunctionCode b s
  case address => exact effect_onAddress b s
  case quantity => exact effect_onQuantity b s
  case byteCount => exact effect_onByteCount b s
  case modbusException => exact effect_raiseError b s
  case firstCRC => exact effect_onFirstCRC b s
  case secondCRC => exact effect_onSecondCRC b s
  all_goals exact (effect_resetBlock s).trans rfl (effect_onSlaveAddress b _)

/-! ## Composites, instructions, steps -/

theorem effect_endDelivery (k : DeliveryKind) (n : Nat) (s : State) : Effect s (endDelivery k n s) := by
  cases k
  · exact ⟨rfl, rfl, .inl rfl, id⟩
  · exact ⟨rfl, rfl, .inl rfl, id⟩

/-- The bookkeeping after a byte touches nothing but the boundary fields. -/
theorem Effect.afterByte {s t : State} (h : Effect s t) (k : DeliveryKind) (n : Nat) (bs : List Byte) :
    Effect s (afterByte k n bs t) where
  cfg := (afterByte_cfg k n bs t).trans h.cfg
  script := (afterByte_script k n bs t).trans h.script
  events := by
    rw [afterByte_state, afterByte_events]
    exact h.events
  canonical hwf := by
    rw [afterByte_buf]
    exact h.canonical hwf

theorem effect_deliver {k : DeliveryKind} {n : Nat} {bs : List Byte} {s t : State} (h : deliver k n bs s = .next t) :
    Effect s t := by
  rcases deliver_next h with ⟨-, rfl⟩ | ⟨b, cs, u, -, hu, rfl⟩
  · exact effect_endDelivery k n s
  · exact (effect_feedByte hu).afterByte k (n + 1) cs

theorem effect_putByte {v : Byte} {s t : State} (h : putByte v s = .next t) : Effect s t := by
  rcases putByte_cases v s with ⟨-, hp⟩ | ⟨-, hp⟩ <;> rw [hp] at h <;> cases h
  exact effect_storeByte v s

theorem effect_readByte {i : Nat} {s t : State} (h : readByte i s = .next t) : Effect s t := by
  rcases readByte_cases i s with ⟨-, hr⟩ | ⟨-, -, hr⟩ | ⟨-, b, -, hr⟩ <;> rw [hr] at h <;> cases h
  exact ⟨rfl, rfl, .inl rfl, id⟩

/-- Instruction by instruction. -/
theorem effect_exec {i : Instr} {s t : State} (h : exec i s = .next t) : Effect s t := by
  cases i with
  | rsp01 | rsp02 | rsp03 | rsp04 | rsp05 | rsp06 | rsp0F | rsp10 | rspExc | rspIllegal
  | req01 | req02 | req03 | req04 | req05 | req06 | req0F | req10 | reqExc | reqIllegal | feedn =>
    exact effect_deliver (withLegalConfig_next h).2
  | feed => exact effect_feedByte (withLegalConfig_next h).2
  | bufRead => exact effect_readByte (withLegalConfig_next h).2
  | bufWrite => exact effect_putByte (withLegalConfig_next h).2
  | hData => exact effect_onData (withLegalConfig_next h).2
  | dispatchFor =>
    obtain ⟨-, ht⟩ := withLegalConfig_next h
    split at ht <;> cases ht
    exact ⟨rfl, rfl, .inl rfl, id⟩
  | nop | crcReset | crcFold | crcValue | advance =>
    obtain ⟨-, ⟨⟩⟩ := withLegalConfig_next h
    exact ⟨rfl, rfl, .inl rfl, id⟩
  | reset | bufAlloc | bufFree =>
    obtain ⟨-, ⟨⟩⟩ := withLegalConfig_next h
    exact ⟨rfl, rfl, .inl rfl, fun _ => rfl⟩
  | hSlaveAddress b =>
    obtain ⟨-, ⟨⟩⟩ := withLegalConfig_next h
    exact effect_onSlaveAddress b s
  | hFunctionCode b =>
    obtain ⟨-, ⟨⟩⟩ := withLegalConfig_next h
    exact effect_onFunctionCode b s
  | hAddress b =>
    obtain ⟨-, ⟨⟩⟩ := withLegalConfig_next h
    exact effect_onAddress b s
  | hQuantity b =>
    obtain ⟨-, ⟨⟩⟩ := withLegalConfig_next h
    exact effect_onQuantity b s
  | hByteCount b =>
    obtain ⟨-, ⟨⟩⟩ := withLegalConfig_next h
    exact effect_onByteCount b s
  | hModbusException b =>
    obtain ⟨-, ⟨⟩⟩ := withLegalConfig_next h
    exact effect_raiseError b s
  | hFirstCRC b =>
    obtain ⟨-, ⟨⟩⟩ := withLegalConfig_next h
    exact effect_onFirstCRC b s
  | hSecondCRC b =>
    obtain ⟨-, ⟨⟩⟩ := withLegalConfig_next h
    exact effect_onSecondCRC b s

/-- Settles O48: every instruction's effect keeps both. -/
theorem execKeepsConfiguration : Obligations.ExecKeepsConfiguration := fun _ _ _ h =>
  ⟨(effect_exec h).cfg, (effect_exec h).script⟩

/-- Settles O49: every instruction's effect keeps the canonical form. -/
theorem execKeepsMemoryCanonical : Obligations.ExecKeepsMemoryCanonical := fun _ _ _ h => (effect_exec h).canonical

/-- Settles O46: a step is a pass of a composite, idleness, or one instruction. -/
theorem stepEmitsAtMostOneEvent : Obligations.StepEmitsAtMostOneEvent := by
  intro s t h
  rcases step_cases h with ⟨d, -, -, hd⟩ | ⟨-, -, rfl⟩ | ⟨item, rest, i, -, -, -, hi⟩
  · exact (effect_deliver hd).atMostOneEvent
  · exact (Effect.refl _).atMostOneEvent
  · exact (effect_exec hi).atMostOneEvent

/-! ## What a FEED answers and emits -/

/-- Where the next payload byte falls outside the allocation, or outside the one it makes (R165, R202). -/
theorem enterData_overruns_iff {s : State} (hl : configLegal s.cfg = true) :
    (enterData s).dataLen ≤ (enterData s).wptr ↔
      if s.bufAlloc then s.dataLen ≤ s.wptr
      else s.cfg.swapRegisters = true ∧
        (if s.dataToReceive = 0 then 2 else s.dataToReceive) < s.cfg.registerSize.toNat := by
  cases ha : s.bufAlloc with
  | true => simp [enterData, ha]
  | false =>
    have hn : 0 < if s.dataToReceive = 0 then 2 else s.dataToReceive := by split <;> omega
    simp only [enterData, ha, Bool.false_eq_true, if_false, allocBuffer_dataLen, allocBuffer_wptr]
    cases hs : s.cfg.swapRegisters with
    | false => simp; omega
    | true =>
      have hN := registerSize_pos hl hs
      simp only [if_true, true_and]
      omega

theorem onData_of_outside (b : Byte) {s : State} (h : (enterData s).dataLen ≤ (enterData s).wptr) :
    onData b s = .fault .bufferOverrun := by rw [onData, putByte_of_outside h, andThen_fault]

theorem onData_of_inside (b : Byte) {s : State} (h : (enterData s).wptr < (enterData s).dataLen) :
    onData b s = .next (finishData b (storeByte b (enterData s))) := by
  rw [onData, putByte_eq_storeByte h, andThen_next]

/-- Settles O27: only `Data` can fail to answer, and only by the overrun of its store. -/
theorem feedAnswersNextOrOverrun : Obligations.FeedAnswersNextOrOverrun := by
  intro b s hl
  have hexec : exec (.feed b) s = feedByte b s := withLegalConfig_of_legal hl
  rw [hexec, ← enterData_overruns_iff hl]
  refine ⟨fun ⟨hs, hout⟩ => (feedByte_of_data hs).trans (onData_of_outside b hout), fun hin => ?_⟩
  have hanswer : ∃ t, feedByte b s = .next t := by
    by_cases hs : s.state = .data
    · exact ⟨_, (feedByte_of_data hs).trans (onData_of_inside b (Nat.not_le.mp fun hle => hin ⟨hs, hle⟩))⟩
    · exact feedByte_answers b hs
  obtain ⟨t, ht⟩ := hanswer
  exact ⟨t, ht, (effect_feedByte ht).atMostOneEvent⟩

/-- Settles O28: a FEED that goes on enters no terminal state, so it adds no event; the two entries add theirs. -/
theorem feedEmitsOnlyOnTerminalEntry : Obligations.FeedEmitsOnlyOnTerminalEntry := by
  intro b s t hr h
  have hevents := (effect_exec h).events
  cases exec_feed_entry hr h with
  | goesOn hn =>
    obtain ⟨hc, he⟩ := isTerminal_eq_false_iff.mp hn
    refine ⟨fun h => absurd h hc, fun h => absurd h he, fun _ _ => ?_⟩
    rcases hevents with hq | ⟨hc', -⟩ | ⟨he', -⟩
    · exact hq
    · exact absurd hc' hc
    · exact absurd he' he
  | completes => exact ⟨fun _ => rfl, nofun, fun hc _ => absurd rfl hc⟩
  | raises k hu =>
    refine ⟨nofun, fun _ => ?_, fun _ he => absurd rfl he⟩
    rcases hu with rfl | ⟨-, rfl⟩
    · rfl
    · rfl

/-! ## Who touches the payload buffer -/

theorem bufferOf_ite {s a b : State} {p : Prop} [Decidable p] (ha : bufferOf a = bufferOf s)
    (hb : bufferOf b = bufferOf s) : bufferOf (if p then a else b) = bufferOf s := by
  split
  · exact ha
  · exact hb

/-- Handler by handler (R195), but for `Data` and the implicit reset. -/
theorem bufferOf_feedByte {b : Byte} {s t : State} (h : feedByte b s = .next t) (hd : s.state ≠ .data)
    (ht : isTerminal s = false) : bufferOf t = bufferOf s := by
  obtain ⟨hc, he⟩ := isTerminal_eq_false_iff.mp ht
  cases hs : s.state <;> simp only [feedByte, hs] at h
  case data => exact absurd hs hd
  case complete => exact absurd hs hc
  case error => exact absurd hs he
  all_goals cases h
  case slaveAddress => exact bufferOf_ite rfl rfl
  case functionCode => exact bufferOf_ite rfl (bufferOf_ite rfl rfl)
  case address => rfl
  case quantity => exact bufferOf_ite rfl rfl
  case byteCount => exact bufferOf_ite rfl (bufferOf_ite rfl rfl)
  case modbusException => rfl
  case firstCRC => exact bufferOf_ite rfl rfl
  case secondCRC => exact bufferOf_ite (bufferOf_ite rfl rfl) rfl

/-- Settles O32: outside `Data` no handler writes the buffer, and only a terminal state is reset first. -/
theorem onlyDataWritesThePayload : Obligations.OnlyDataWritesThePayload := by
  intro b s t h hd hc he
  have hbuf := bufferOf_feedByte (withLegalConfig_next h).2 hd (isTerminal_eq_false_iff.mpr ⟨hc, he⟩)
  simp only [bufferOf, Prod.mk.injEq] at hbuf
  obtain ⟨halloc, hlen, hw, hr, hm⟩ := hbuf
  exact ⟨halloc, hlen, hw, hr, fun i => by rw [hm]⟩

end Sys2Proof.Machine
end

section
/-! The reachable shape (10_state.md section 8): every FEED keeps it, and so every step does. -/

namespace Sys2Proof.Machine

/-! ## Walking a table -/

section Tags

variable {role : Role} {fc : Byte} {t : List ParserState} {p : Nat}

/-- A table has a first tag. -/
theorem tag_first (ht : phaseTable role fc = some t) : ∃ tag, t[0]? = some tag := by
  rcases phaseTable_contents ht with rfl | rfl | rfl | rfl <;> exact ⟨_, rfl⟩

/-- The address fields stand at the table's front, something after them (R182 to R187). -/
theorem tag_after_address (ht : phaseTable role fc = some t) (hp : t[p]? = some .address) :
    ∃ tag, t[p + 1]? = some tag := by
  have hall : ∀ i : Fin t.length, t[i] = .address → i.val + 1 < t.length := by
    rcases phaseTable_contents ht with rfl | rfl | rfl | rfl <;> decide
  obtain ⟨hlt, htag⟩ := List.getElem?_eq_some_iff.mp hp
  exact ⟨_, List.getElem?_eq_getElem (hall ⟨p, hlt⟩ htag)⟩

/-- A quantity is followed by another tag, or ends a table without payload. -/
theorem tag_after_quantity (ht : phaseTable role fc = some t) (hp : t[p]? = some .quantity) :
    (∃ tag, t[p + 1]? = some tag) ∨ (p + 1 = t.length ∧ .data ∉ t) := by
  have hall : ∀ i : Fin t.length, t[i] = .quantity →
      i.val + 1 < t.length ∨ (i.val + 1 = t.length ∧ .data ∉ t) := by
    rcases phaseTable_contents ht with rfl | rfl | rfl | rfl <;> decide
  obtain ⟨hlt, htag⟩ := List.getElem?_eq_some_iff.mp hp
  exact (hall ⟨p, hlt⟩ htag).imp_left fun h => ⟨_, List.getElem?_eq_getElem h⟩

/-- The payload is a table's last phase. -/
theorem tag_data_last (ht : phaseTable role fc = some t) (hp : t[p]? = some .data) : p + 1 = t.length := by
  have hall : ∀ i : Fin t.length, t[i] = .data → i.val + 1 = t.length := by
    rcases phaseTable_contents ht with rfl | rfl | rfl | rfl <;> decide
  obtain ⟨hlt, htag⟩ := List.getElem?_eq_some_iff.mp hp
  exact hall ⟨p, hlt⟩ htag

/-- Every tag is one of four (R180). -/
theorem tag_mem (ht : phaseTable role fc = some t) {tag : ParserState} (hp : t[p]? = some tag) :
    tag = .address ∨ tag = .quantity ∨ tag = .byteCount ∨ tag = .data := by
  have hall : ∀ x ∈ t, x = .address ∨ x = .quantity ∨ x = .byteCount ∨ x = .data := by
    rcases phaseTable_contents ht with rfl | rfl | rfl | rfl <;> decide
  exact hall tag (List.mem_of_getElem? hp)

end Tags

/-- `advance()` to a tag of the table. -/
theorem atPhase_advancePhase {s : State} {t : List ParserState} {tag : ParserState}
    (ht : phaseTable s.cfg.role s.functionCode = some t) (hp : t[s.phaseIdx + 1]? = some tag) :
    AtPhase (advancePhase s) :=
  ⟨t, ht, by rw [advancePhase_phaseIdx, advancePhase_state, stateAtPhase_of_tag ht hp, hp]⟩

/-- `advance()` past the last tag (R188). -/
theorem advancePhase_last {s : State} {t : List ParserState} (ht : phaseTable s.cfg.role s.functionCode = some t)
    (hp : s.phaseIdx + 1 = t.length) :
    advancePhase s = { s with phaseIdx := s.phaseIdx + 1, state := .firstCRC } := by
  rw [advancePhase, hp, stateAtPhase_past ht]

/-! ## What the shape reads -/

/-- The contents of the buffer are a matter of it, the configuration and the byte count alone. -/
theorem BufferHolds.congr {s t : State} {k : Nat} (h : BufferHolds s k) (hcfg : t.cfg = s.cfg)
    (hbc : t.byteCount = s.byteCount) (hbuf : bufferOf t = bufferOf s) : BufferHolds t k := by
  simp only [bufferOf, Prod.mk.injEq] at hbuf
  obtain ⟨halloc, hlen, hw, hr, hm⟩ := hbuf
  refine ⟨?_, ?_, ?_, ?_, ?_, ?_, ?_⟩
  · rw [halloc, h.allocated]
  · rw [hlen, hbc, h.size]
  · rw [hw, hcfg, h.cursor]
  · rw [hr, hcfg, h.counter]
  · rw [hcfg, hlen]
    exact h.inside
  · rw [hcfg, hm]
    exact h.written
  · rw [hcfg, hm]
    exact h.onlyThose

/-- Where the block is in the dispatch, and what the buffer's contents depend on beside it. -/
def phaseOf (s : State) : Config × Byte × Nat × Byte := (s.cfg, s.functionCode, s.phaseIdx, s.byteCount)

theorem PastPhases.congr {s t : State} (h : PastPhases s) (hphase : phaseOf t = phaseOf s)
    (hbuf : bufferOf t = bufferOf s) : PastPhases t := by
  have hbuf' := hbuf
  simp only [phaseOf, bufferOf, Prod.mk.injEq] at hphase hbuf'
  obtain ⟨hcfg, hfc, hp, hbc⟩ := hphase
  obtain ⟨halloc, hlen, hw, hr, hm⟩ := hbuf'
  obtain ⟨tags, htags, hidx, hpay⟩ := h
  refine ⟨tags, by rw [currentTable, hcfg, hfc]; exact htags, hp.trans hidx, ?_⟩
  split
  next hd =>
    rw [if_pos hd] at hpay
    rw [hlen]
    exact hpay.congr hcfg hbc hbuf
  next hd =>
    rw [if_neg hd] at hpay
    obtain ⟨h1, h2, h3, h4, h5⟩ := hpay
    exact ⟨halloc.trans h1, hlen.trans h2, hw.trans h3, hr.trans h4, hm.trans h5⟩

/-- Past the phases the buffer is free or full. -/
theorem PastPhases.buffer {s : State} (h : PastPhases s) : BufferFree s ∨ BufferHolds s s.dataLen := by
  obtain ⟨tags, -, -, hpay⟩ := h
  split at hpay
  · exact .inr hpay
  · exact .inl hpay

/-- The three boundary fields that no FEED touches are no part of the shape. -/
theorem ReachableShape.withBoundary {s : State} (h : ReachableShape s) (c : List FetchItem) (d : Option Delivery)
    (r : Returned) : ReachableShape (withBoundary c d r s) := by
  refine ⟨h.canonical, h.withinLimit, h.noStaleError, ?_⟩
  have hshape := h.shape
  have hw : (Machine.withBoundary c d r s).state = s.state := rfl
  cases hs : s.state <;> simp only [PhaseShape, hw, hs] at hshape ⊢
  case slaveAddress => rw [hshape]; rfl
  case functionCode => exact hshape
  case address => exact hshape
  case quantity => exact hshape
  case byteCount => exact hshape
  case modbusException => exact hshape
  case data => exact hshape.imp_right (Or.imp id fun ⟨h0, hle, hb⟩ => ⟨h0, hle, hb.congr rfl rfl rfl⟩)
  case error => exact hshape.imp id fun hb => hb.congr rfl rfl rfl
  all_goals exact hshape.imp_right fun hp => hp.congr rfl rfl

/-! ## How a handler's result has the shape -/

/-- Outside `Error` the error register is clear. -/
theorem ReachableShape.error_eq_zero {s : State} (h : ReachableShape s) (hs : s.state ≠ .error) : s.error = 0 := by
  by_contra hne
  exact hs (h.noStaleError hne)

theorem reachableShape_resetBlock (s : State) : ReachableShape (resetBlock s) :=
  ⟨rfl, Nat.zero_le _, fun h => absurd rfl h, rfl⟩

theorem reachableShape_raiseError (k : Byte) {s : State} (hwf : Memory.wf s.buf = true)
    (hlim : s.byteCount.toNat ≤ s.cfg.byteCountLimit) (hbuf : BufferFree s ∨ BufferHolds s s.dataLen) :
    ReachableShape (raiseError k s) :=
  ⟨hwf, hlim, fun _ => rfl, hbuf.imp id fun h => h.congr rfl rfl rfl⟩

/-- In a phase of the fixed fields: at the table's tag, no count and no payload yet. -/
def FieldPhase (s : State) : Prop := AtPhase s ∧ s.byteCount = 0 ∧ s.dataToReceive = 0 ∧ BufferFree s

/-- Entering a tag so is the shape of that tag, `Data` on its implicit path included (R190). -/
theorem FieldPhase.shape {s : State} (h : FieldPhase s) : PhaseShape s := by
  have h' := h
  obtain ⟨⟨t, ht, htag⟩, hbc, hdtr, hfree⟩ := h'
  rcases tag_mem ht htag with hs | hs | hs | hs <;> simp only [PhaseShape, hs]
  · exact h
  · exact h
  · exact h
  · exact ⟨h.1, .inl ⟨hfree, by rw [hbc, hdtr]; rfl⟩⟩

theorem FieldPhase.reachable {s : State} (h : FieldPhase s) (herr : s.error = 0) : ReachableShape s := by
  have h' := h
  obtain ⟨-, hbc, -, -, -, -, -, hbuf⟩ := h'
  exact ⟨by rw [hbuf]; rfl, by rw [hbc]; exact Nat.zero_le _, fun hne => absurd herr hne, h.shape⟩

/-! ## The handlers before the payload -/

theorem reachable_onSlaveAddress (b : Byte) (s : State) : ReachableShape (onSlaveAddress b (resetBlock s)) := by
  unfold onSlaveAddress
  split
  · exact ⟨rfl, Nat.zero_le _, fun h => absurd rfl h, ⟨rfl, rfl, rfl, rfl, rfl⟩, rfl, rfl, rfl, rfl, rfl, rfl⟩
  · exact reachableShape_resetBlock s

theorem reachable_onFunctionCode (b : Byte) {s : State} (hr : ReachableShape s) (hs : s.state = .functionCode) :
    ReachableShape (onFunctionCode b s) := by
  have herr := hr.error_eq_zero (by simp [hs])
  obtain ⟨hfresh, hdtr, hfree⟩ : FieldsFresh s ∧ s.dataToReceive = 0 ∧ BufferFree s := by
    simpa only [PhaseShape, hs] using hr.shape
  unfold onFunctionCode
  split
  · exact ⟨hr.canonical, hr.withinLimit, fun hne => absurd herr hne, hfresh, hdtr, hfree⟩
  · split
    next hsup =>
      obtain ⟨t, ht⟩ := Option.isSome_iff_exists.mp ((phaseTable_isSome s.cfg.role b).trans hsup)
      obtain ⟨tag, htag⟩ := tag_first ht
      obtain ⟨-, -, -, hbc, -⟩ := hfresh
      have hphase : FieldPhase { foldCrc b s with
          functionCode := b, phaseIdx := 0, state := stateAtPhase s.cfg.role b 0 } :=
        ⟨⟨t, ht, htag.trans (congrArg some (stateAtPhase_of_tag ht htag).symm)⟩, hbc, hdtr, hfree⟩
      exact hphase.reachable herr
    next => exact reachableShape_raiseError _ hr.canonical hr.withinLimit (.inl hfree)

theorem reachable_onAddress (b : Byte) {s : State} (hr : ReachableShape s) (hs : s.state = .address) :
    ReachableShape (onAddress b s) := by
  have herr := hr.error_eq_zero (by simp [hs])
  obtain ⟨⟨t, ht, htag⟩, hrest⟩ : FieldPhase s := by
    simpa only [FieldPhase, PhaseShape, hs] using hr.shape
  obtain ⟨tag, hnext⟩ := tag_after_address ht (hs ▸ htag)
  have hphase : FieldPhase (onAddress b s) :=
    ⟨atPhase_advancePhase (s := foldCrc b { s with address := _ }) ht hnext, hrest⟩
  exact hphase.reachable herr

theorem reachable_onQuantity (b : Byte) {s : State} (hr : ReachableShape s) (hs : s.state = .quantity) :
    ReachableShape (onQuantity b s) := by
  have herr := hr.error_eq_zero (by simp [hs])
  obtain ⟨⟨t, ht, htag⟩, hbc, hdtr, hfree⟩ : FieldPhase s := by
    simpa only [FieldPhase, PhaseShape, hs] using hr.shape
  rw [onQuantity_eq]
  split
  · exact reachableShape_raiseError (s := quantityWritten b s) _ hr.canonical hr.withinLimit (.inl hfree)
  · rcases tag_after_quantity ht (hs ▸ htag) with ⟨tag, hnext⟩ | ⟨hlast, hnodata⟩
    · have hphase : FieldPhase (advancePhase (quantityWritten b s)) :=
        ⟨atPhase_advancePhase (s := quantityWritten b s) ht hnext, hbc, hdtr, hfree⟩
      exact hphase.reachable herr
    · rw [advancePhase_last (s := quantityWritten b s) ht hlast]
      exact ⟨hr.canonical, hr.withinLimit, fun hne => absurd herr hne, hdtr, t, ht, hlast,
        by rw [if_neg hnodata]; exact hfree⟩

theorem reachable_onByteCount (b : Byte) {s : State} (hr : ReachableShape s) (hs : s.state = .byteCount) :
    ReachableShape (onByteCount b s) := by
  have herr := hr.error_eq_zero (by simp [hs])
  obtain ⟨⟨t, ht, htag⟩, -, -, hfree⟩ : FieldPhase s := by
    simpa only [FieldPhase, PhaseShape, hs] using hr.shape
  by_cases hbad : b = 0 ∨ s.cfg.byteCountLimit < b.toNat
  · rw [onByteCount_of_invalid hbad]
    exact reachableShape_raiseError _ hr.canonical hr.withinLimit (.inl hfree)
  · obtain ⟨h0, hle⟩ := not_or.mp hbad
    have hbyte := hs ▸ htag
    rw [onByteCount_of_valid h0 (Nat.not_lt.mp hle),
      advancePhase_of_byteCount (s := foldCrc b { s with byteCount := b, dataToReceive := b.toNat }) ht hbyte]
    exact ⟨hr.canonical, Nat.not_lt.mp hle, fun hne => absurd herr hne, ⟨t, ht, tag_after_byteCount ht hbyte⟩,
      .inl ⟨hfree, rfl⟩⟩

/-! ## The payload -/

/-- In the middle of a payload: `vs` is stored, and `data_to_receive` counts what is missing (R51, R202). -/
structure Receiving (s : State) (vs : List Byte) : Prop where
  allocated : s.bufAlloc = true
  size : s.dataLen = if s.byteCount = 0 then 2 else s.byteCount.toNat
  remaining : vs.length + s.dataToReceive = s.dataLen
  stored : PayloadStored s vs

/-- The first byte of a run allocates, 2 bytes on the implicit path (R190, R202). -/
theorem receiving_enterData {s : State} (hl : configLegal s.cfg = true) (hfree : BufferFree s)
    (hdtr : s.dataToReceive = s.byteCount.toNat) :
    Receiving (enterData s) [] ∧ 0 < (enterData s).dataToReceive := by
  obtain ⟨halloc, -⟩ := hfree
  have hcount : s.byteCount = 0 ↔ s.dataToReceive = 0 := by rw [hdtr, ← BitVec.toNat_inj]; rfl
  have heq : enterData s = allocBuffer (if s.dataToReceive = 0 then 2 else s.dataToReceive)
      { s with dataToReceive := if s.dataToReceive = 0 then 2 else s.dataToReceive } := by
    simp [enterData, halloc]
  rw [heq]
  refine ⟨⟨rfl, ?_, ?_, ?_⟩, ?_⟩
  · simp only [allocBuffer_dataLen, allocBuffer_byteCount, hcount, hdtr]
  · simp
  · apply payloadStored_alloc
    exact hl
  · simp only [allocBuffer_dataToReceive]
    split <;> omega

/-- A further byte finds the buffer allocated. -/
theorem enterData_of_allocated {s : State} (h : s.bufAlloc = true) : enterData s = s := if_pos h

/-- A payload byte taken into the allocated buffer (R202): stored, folded, and counted. -/
def receiveByte (b : Byte) (s : State) : State :=
  foldCrc b { storeByte b s with dataToReceive := s.dataToReceive - 1 }

/-- It is written nowhere else. -/
theorem receiveByte_frame (b : Byte) (s : State) :
    receiveByte b s = { s with
      buf := (storeByte b s).buf, wptr := (storeByte b s).wptr, rcnt := (storeByte b s).rcnt,
      crc := crcFoldByte s.crc b, dataToReceive := s.dataToReceive - 1 } := by
  rw [receiveByte, storeByte_frame]
  rfl

section Fields

variable (b : Byte) (s : State)

@[simp] theorem receiveByte_cfg : (receiveByte b s).cfg = s.cfg := by rw [receiveByte_frame]
@[simp] theorem receiveByte_functionCode : (receiveByte b s).functionCode = s.functionCode := by rw [receiveByte_frame]
@[simp] theorem receiveByte_byteCount : (receiveByte b s).byteCount = s.byteCount := by rw [receiveByte_frame]
@[simp] theorem receiveByte_error : (receiveByte b s).error = s.error := by rw [receiveByte_frame]
@[simp] theorem receiveByte_state : (receiveByte b s).state = s.state := by rw [receiveByte_frame]
@[simp] theorem receiveByte_phaseIdx : (receiveByte b s).phaseIdx = s.phaseIdx := by rw [receiveByte_frame]
@[simp] theorem receiveByte_bufAlloc : (receiveByte b s).bufAlloc = s.bufAlloc := by rw [receiveByte_frame]
@[simp] theorem receiveByte_dataLen : (receiveByte b s).dataLen = s.dataLen := by rw [receiveByte_frame]
@[simp] theorem receiveByte_dataToReceive : (receiveByte b s).dataToReceive = s.dataToReceive - 1 := rfl

end Fields

/-- While bytes are missing the block stays in `Data` (R202). -/
theorem finishData_storeByte_more (b : Byte) {s : State} (h : 1 < s.dataToReceive) :
    finishData b (storeByte b s) = receiveByte b s := by
  have hcount : decrement .dataToReceive (storeByte b s).dataToReceive = s.dataToReceive - 1 := by
    rw [storeByte_dataToReceive, decrement_of_pos _ (by omega)]
  rw [finishData, hcount]
  exact if_neg (show s.dataToReceive - 1 ≠ 0 by omega)

/-- The last one moves the phase on. -/
theorem finishData_storeByte_last (b : Byte) {s : State} (h : s.dataToReceive = 1) :
    finishData b (storeByte b s) = advancePhase (receiveByte b s) := by
  have hcount : decrement .dataToReceive (storeByte b s).dataToReceive = s.dataToReceive - 1 := by
    rw [storeByte_dataToReceive, decrement_of_pos _ (by omega)]
  rw [finishData, hcount]
  exact if_pos (show s.dataToReceive - 1 = 0 by omega)

theorem Receiving.receiveByte {s : State} {vs : List Byte} (h : Receiving s vs) (hl : configLegal s.cfg = true)
    (h0 : 0 < s.dataToReceive) (hin : s.wptr < s.dataLen) (b : Byte) : Receiving (receiveByte b s) (vs ++ [b]) where
  allocated := (receiveByte_bufAlloc b s).trans h.allocated
  size := by simpa using h.size
  remaining := by
    have hremaining := h.remaining
    simp only [List.length_append, List.length_singleton, receiveByte_dataToReceive, receiveByte_dataLen]
    omega
  stored := (h.stored.store hl hin b).congr rfl rfl

/-- The bytes received so far are the buffer's contents. -/
theorem Receiving.holds {s : State} {vs : List Byte} (h : Receiving s vs) : BufferHolds s vs.length :=
  (bufferHolds_iff_payloadStored h.stored.canonical).mpr ⟨h.allocated, h.size, vs, rfl, h.stored⟩

/-- In `Data` the next byte finds a buffer that is missing it. -/
theorem ReachableShape.receiving {s : State} (hr : ReachableShape s) (hl : configLegal s.cfg = true)
    (hs : s.state = .data) : ∃ vs, Receiving (enterData s) vs ∧ 0 < (enterData s).dataToReceive := by
  have hshape := hr.shape
  simp only [PhaseShape, hs] at hshape
  rcases hshape with ⟨-, ⟨hfree, hdtr⟩ | ⟨h0, hle, hbuf⟩⟩
  · exact ⟨[], receiving_enterData hl hfree hdtr⟩
  · obtain ⟨halloc, hsize, vs, hlen, hstored⟩ := (bufferHolds_iff_payloadStored hr.canonical).mp hbuf
    rw [enterData_of_allocated halloc]
    exact ⟨vs, ⟨halloc, hsize, by omega, hstored⟩, h0⟩

theorem reachable_onData {b : Byte} {s t : State} (hr : ReachableShape s) (hl : configLegal s.cfg = true)
    (hs : s.state = .data) (h : onData b s = .next t) : ReachableShape t := by
  obtain ⟨hin, heq⟩ := onData_next h
  obtain ⟨vs, hrec, h0⟩ := hr.receiving hl hs
  have hcfg := enterData_cfg s
  have hst := enterData_state s
  have hphase : AtPhase (enterData s) := atPhase_enterData (by
    have hshape := hr.shape
    simp only [PhaseShape, hs] at hshape
    exact hshape.1)
  have herr0 : (receiveByte b (enterData s)).error = 0 := by
    rw [receiveByte_error, enterData_error]
    exact hr.error_eq_zero (by simp [hs])
  have hlim : (receiveByte b (enterData s)).byteCount.toNat ≤ (receiveByte b (enterData s)).cfg.byteCountLimit := by
    rw [receiveByte_byteCount, receiveByte_cfg, enterData_byteCount, hcfg]
    exact hr.withinLimit
  have hnext := hrec.receiveByte (hcfg.symm ▸ hl) h0 hin b
  have hremaining := hnext.remaining
  have hholds := hnext.holds
  obtain ⟨tags, ht, htag⟩ := hphase
  rw [hst, hs] at htag
  change t = finishData b (storeByte b (enterData s)) at heq
  rcases Nat.lt_or_eq_of_le (Nat.succ_le_of_lt h0) with hmore | hlast
  · rw [finishData_storeByte_more b hmore] at heq
    subst heq
    have hstate : (receiveByte b (enterData s)).state = .data := by rw [receiveByte_state, hst, hs]
    refine ⟨hnext.stored.canonical, hlim, fun hne => absurd herr0 hne, ?_⟩
    simp only [PhaseShape, hstate]
    refine ⟨⟨tags, by simpa [currentTable] using ht, by rw [receiveByte_phaseIdx, hstate, htag]⟩,
      .inr ⟨?_, ?_, ?_⟩⟩
    · rw [receiveByte_dataToReceive]
      omega
    · omega
    · rwa [show (receiveByte b (enterData s)).dataLen - (receiveByte b (enterData s)).dataToReceive
        = (vs ++ [b]).length by omega]
  · have hidx : (receiveByte b (enterData s)).phaseIdx + 1 = tags.length := by
      rw [receiveByte_phaseIdx]
      exact tag_data_last ht htag
    have ht' : phaseTable (receiveByte b (enterData s)).cfg.role (receiveByte b (enterData s)).functionCode
        = some tags := by simpa [currentTable] using ht
    have hdtr : (receiveByte b (enterData s)).dataToReceive = 0 := by
      rw [receiveByte_dataToReceive]
      omega
    rw [finishData_storeByte_last b hlast.symm, advancePhase_last ht' hidx] at heq
    subst heq
    refine ⟨hnext.stored.canonical, hlim, fun hne => absurd herr0 hne, hdtr, tags, ht', hidx, ?_⟩
    rw [if_pos (List.mem_of_getElem? htag)]
    refine BufferHolds.congr (s := receiveByte b (enterData s)) ?_ rfl rfl rfl
    show BufferHolds (receiveByte b (enterData s)) (receiveByte b (enterData s)).dataLen
    rwa [show (receiveByte b (enterData s)).dataLen = (vs ++ [b]).length by omega]

/-! ## The handlers after the payload -/

theorem reachable_onModbusException (b : Byte) {s : State} (hr : ReachableShape s) (hs : s.state = .modbusException) :
    ReachableShape (onModbusException b s) := by
  have hshape := hr.shape
  simp only [PhaseShape, hs] at hshape
  exact reachableShape_raiseError _ hr.canonical hr.withinLimit (.inl hshape.2.2)

theorem reachable_onFirstCRC (b : Byte) {s : State} (hr : ReachableShape s) (hs : s.state = .firstCRC) :
    ReachableShape (onFirstCRC b s) := by
  obtain ⟨hdtr, hpast⟩ : s.dataToReceive = 0 ∧ PastPhases s := by simpa only [PhaseShape, hs] using hr.shape
  have herr := hr.error_eq_zero (by simp [hs])
  unfold onFirstCRC
  split
  · exact ⟨hr.canonical, hr.withinLimit, fun hne => absurd herr hne, hdtr, hpast.congr rfl rfl⟩
  · exact reachableShape_raiseError _ hr.canonical hr.withinLimit hpast.buffer

theorem reachable_onSecondCRC (b : Byte) {s : State} (hr : ReachableShape s) (hs : s.state = .secondCRC) :
    ReachableShape (onSecondCRC b s) := by
  obtain ⟨hdtr, hpast⟩ : s.dataToReceive = 0 ∧ PastPhases s := by simpa only [PhaseShape, hs] using hr.shape
  have herr := hr.error_eq_zero (by simp [hs])
  rcases onSecondCRC_entry b s with ⟨-, -, heq⟩ | ⟨k, heq⟩ <;> rw [heq]
  · exact ⟨hr.canonical, hr.withinLimit, fun hne => absurd herr hne, hdtr, hpast.congr rfl rfl⟩
  · exact reachableShape_raiseError _ hr.canonical hr.withinLimit hpast.buffer

/-- Handler by handler (R195). -/
theorem reachable_feedByte {b : Byte} {s t : State} (hr : ReachableShape s) (hl : configLegal s.cfg = true)
    (h : feedByte b s = .next t) : ReachableShape t := by
  have hshape := hr.shape
  cases hs : s.state <;> simp only [feedByte, hs] at h <;> simp only [PhaseShape, hs] at hshape
  case data => exact reachable_onData hr hl hs h
  all_goals cases h
  case slaveAddress =>
    rw [hshape]
    exact reachable_onSlaveAddress b s
  case functionCode => exact reachable_onFunctionCode b hr hs
  case address => exact reachable_onAddress b hr hs
  case quantity => exact reachable_onQuantity b hr hs
  case byteCount => exact reachable_onByteCount b hr hs
  case modbusException => exact reachable_onModbusException b hr hs
  case firstCRC => exact reachable_onFirstCRC b hr hs
  case secondCRC => exact reachable_onSecondCRC b hr hs
  all_goals exact reachable_onSlaveAddress b s

/-! ## Composites -/

/-- The bookkeeping after a byte writes boundary fields only. -/
theorem endDelivery_eq_withBoundary (k : DeliveryKind) (n : Nat) (s : State) :
    ∃ r, endDelivery k n s = withBoundary s.script none r s := by
  cases k
  · exact ⟨s.returned, rfl⟩
  · exact ⟨.count n, rfl⟩

theorem afterByte_eq_withBoundary (k : DeliveryKind) (n : Nat) (bs : List Byte) (s : State) :
    ∃ d r, afterByte k n bs s = withBoundary s.script d r s := by
  unfold afterByte
  split
  · exact ⟨none, endDelivery_eq_withBoundary k n s⟩
  · exact ⟨_, s.returned, rfl⟩

theorem reachable_deliver {k : DeliveryKind} {n : Nat} {bs : List Byte} {s t : State} (hr : ReachableShape s)
    (hl : configLegal s.cfg = true) (h : deliver k n bs s = .next t) : ReachableShape t := by
  rcases deliver_next h with ⟨-, rfl⟩ | ⟨b, cs, u, -, hu, rfl⟩
  · obtain ⟨r, heq⟩ := endDelivery_eq_withBoundary k n s
    rw [heq]
    exact hr.withBoundary _ _ _
  · obtain ⟨d, r, heq⟩ := afterByte_eq_withBoundary k (n + 1) cs u
    rw [heq]
    exact (reachable_feedByte hr hl hu).withBoundary _ _ _

/-- With no composite in progress there is nothing to keep alive. -/
theorem deliveryLive_of_none {s : State} (h : s.delivery = none) : DeliveryLive s := fun d hd => by
  rw [h] at hd
  cases hd

/-- A pass leaves a composite in progress only with bytes to feed and outside `Error` (R264). -/
theorem deliveryLive_deliver {k : DeliveryKind} {n : Nat} {bs : List Byte} {s t : State}
    (h : deliver k n bs s = .next t) : DeliveryLive t := by
  rcases deliver_next h with ⟨-, rfl⟩ | ⟨b, cs, u, -, hu, rfl⟩
  · exact deliveryLive_of_none (endDelivery_delivery k n s)
  · by_cases hend : u.state = .error ∨ cs = []
    · rw [afterByte_of_end hend]
      exact deliveryLive_of_none (endDelivery_delivery k (n + 1) u)
    · obtain ⟨he, hcs⟩ := not_or.mp hend
      rw [afterByte_of_more he hcs]
      rintro d ⟨⟩
      exact ⟨hcs, Nat.succ_pos n, he⟩

/-! ## The instructions a step runs -/

/-- A frame kind feeds the bytes it is encoded as (R116). -/
theorem exec_of_encode_frame {i : Instr} {s : State} {bytes : List Byte}
    (h : encode s.cfg i = some (.frame bytes)) : exec i s = withLegalConfig s (deliverFrame bytes s) := by
  cases i with
  | nop | feed | reset | feedn | crcReset | crcFold | crcValue | bufAlloc | bufFree | bufRead | bufWrite
  | dispatchFor | advance | hSlaveAddress | hFunctionCode | hAddress | hQuantity | hByteCount | hData
  | hModbusException | hFirstCRC | hSecondCRC => cases h
  | _ =>
    obtain ⟨-, hbytes⟩ := frameFor_eq_some h
    cases hbytes
    rfl

/-- What a decoded instruction does: a command of the port, or the first pass of a composite. -/
inductive DecodedRun (s : State) (i : Instr) : Prop
  | nop (h : exec i s = withLegalConfig s (.next s))
  | feed (b : Byte) (h : exec i s = withLegalConfig s (feedByte b s))
  | reset (h : exec i s = withLegalConfig s (.next (resetBlock s)))
  | composite (k : DeliveryKind) (bs : List Byte) (h : exec i s = withLegalConfig s (deliver k 0 bs s))

theorem decodedRun_of_decode {s : State} {item : FetchItem} {i : Instr} (h : decode s.cfg item = .ok i) :
    DecodedRun s i := by
  cases item with
  | port op din =>
    change decodePort op din = .ok i at h
    unfold decodePort at h
    split at h <;> cases h
    · exact .nop rfl
    · exact .feed din rfl
    · exact .reset rfl
  | frame bytes => exact .composite .frame bytes (exec_of_encode_frame (encodeOfDecodeIsTheFrame s.cfg bytes i h).2)
  | bulk bytes =>
    cases h
    exact .composite .feedn bytes rfl

theorem reachable_exec {s t : State} {i : Instr} (hr : ReachableShape s) (hrun : DecodedRun s i)
    (h : exec i s = .next t) : ReachableShape t := by
  cases hrun with
  | nop hrun =>
    obtain ⟨-, ⟨⟩⟩ := withLegalConfig_next (hrun ▸ h)
    exact hr
  | feed b hrun =>
    obtain ⟨hl, hb⟩ := withLegalConfig_next (hrun ▸ h)
    exact reachable_feedByte hr hl hb
  | reset hrun =>
    obtain ⟨-, ⟨⟩⟩ := withLegalConfig_next (hrun ▸ h)
    exact reachableShape_resetBlock s
  | composite k bs hrun =>
    obtain ⟨hl, hd⟩ := withLegalConfig_next (hrun ▸ h)
    exact reachable_deliver hr hl hd

theorem deliveryLive_exec {s t : State} {i : Instr} (hnone : s.delivery = none) (hrun : DecodedRun s i)
    (h : exec i s = .next t) : DeliveryLive t := by
  cases hrun with
  | nop hrun =>
    obtain ⟨-, ⟨⟩⟩ := withLegalConfig_next (hrun ▸ h)
    exact deliveryLive_of_none hnone
  | feed b hrun =>
    obtain ⟨-, -, hdelivery, -⟩ := feedByte_keeps (withLegalConfig_next (hrun ▸ h)).2
    exact deliveryLive_of_none (hdelivery.trans hnone)
  | reset hrun =>
    obtain ⟨-, ⟨⟩⟩ := withLegalConfig_next (hrun ▸ h)
    exact deliveryLive_of_none hnone
  | composite k bs hrun => exact deliveryLive_deliver (withLegalConfig_next (hrun ▸ h)).2

/-- Settles O51: a step is a pass of the composite in progress, idleness, or a decoded instruction on the state without
its item; handler by handler each keeps the shape. -/
theorem stepKeepsTheShape : Obligations.StepKeepsTheShape := by
  refine ⟨fun s t hr h => ?_, fun s t h => ?_⟩
  · rcases step_cases h with ⟨d, -, hl, hd⟩ | ⟨-, -, rfl⟩ | ⟨item, rest, i, -, -, hi, he⟩
    · exact reachable_deliver hr hl hd
    · exact hr
    · exact reachable_exec (hr.withBoundary rest s.delivery s.returned)
        (decodedRun_of_decode (s := { s with script := rest }) hi) he
  · rcases step_cases h with ⟨d, -, -, hd⟩ | ⟨hnone, -, rfl⟩ | ⟨item, rest, i, hnone, -, hi, he⟩
    · exact deliveryLive_deliver hd
    · exact deliveryLive_of_none hnone
    · exact deliveryLive_exec (s := { s with script := rest }) hnone (decodedRun_of_decode hi) he

end Sys2Proof.Machine
end

section
/-! What the reachable shape gives: it holds at power-on, and the sanity facts of 10_state.md section 8
follow from it. -/

namespace Sys2Proof.Machine

theorem reachableShape_powerOn (c : Config) : ReachableShape (State.powerOn c) :=
  reachableShape_resetBlock (State.powerOn c)

/-- Settles O50: power-on is its own reset, and no composite is in progress there. -/
theorem resetHasTheShape : Obligations.ResetHasTheShape :=
  ⟨⟨reachableShape_powerOn Config.atReset, rfl, deliveryLive_of_none rfl⟩,
    fun c => ⟨reachableShape_powerOn c, rfl, deliveryLive_of_none rfl⟩⟩

/-- A table is there for supported codes only (R181). -/
theorem supported_of_phaseTable {role : Role} {fc : Byte} {t : List ParserState} (h : phaseTable role fc = some t) :
    supportedCodes.contains fc = true := by rw [← phaseTable_isSome role, h, Option.isSome_some]

/-! ## The shape, by the value of `state` -/

section Shape

variable {s : State} (hr : ReachableShape s)
include hr

/-- In a phase the table's tag is `state` (R61 (d), (e)). -/
theorem ReachableShape.atPhase (hs : s.state ∈ [.address, .quantity, .byteCount, .data]) : AtPhase s := by
  have hshape := hr.shape
  simp only [List.mem_cons, List.not_mem_nil, or_false] at hs
  rcases hs with hs | hs | hs | hs <;> simp only [PhaseShape, hs] at hshape <;> exact hshape.1

/-- Past the phases nothing is missing (R61 (b), (e)). -/
theorem ReachableShape.pastPhases (hs : s.state ∈ [.firstCRC, .secondCRC, .complete]) :
    s.dataToReceive = 0 ∧ PastPhases s := by
  have hshape := hr.shape
  simp only [List.mem_cons, List.not_mem_nil, or_false] at hs
  rcases hs with hs | hs | hs <;> simp only [PhaseShape, hs] at hshape <;> exact hshape

/-- In every state the buffer is free, or allocated with some of its bytes in it. -/
theorem ReachableShape.buffer : BufferFree s ∨ ∃ k, BufferHolds s k := by
  have hshape := hr.shape
  cases hs : s.state <;> simp only [PhaseShape, hs] at hshape
  case slaveAddress =>
    rw [hshape]
    exact .inl ⟨rfl, rfl, rfl, rfl, rfl⟩
  case functionCode => exact .inl hshape.2.2
  case modbusException => exact .inl hshape.2.2
  case address => exact .inl hshape.2.2.2
  case quantity => exact .inl hshape.2.2.2
  case byteCount => exact .inl hshape.2.2.2
  case data => exact hshape.2.imp And.left fun ⟨_, _, hb⟩ => ⟨_, hb⟩
  case error => exact hshape.imp id fun hb => ⟨_, hb⟩
  all_goals exact hshape.2.buffer.imp id fun hb => ⟨_, hb⟩

/-- In a terminal state the payload is whole or there is none (R61 (c)). -/
theorem ReachableShape.terminal_buffer (hs : s.state = .complete ∨ s.state = .error) :
    BufferFree s ∨ BufferHolds s s.dataLen := by
  rcases hs with hs | hs
  · exact (hr.pastPhases (by simp [hs])).2.buffer
  · have hshape := hr.shape
    simp only [PhaseShape, hs] at hshape
    exact hshape

end Shape

/-- Settles O53: each fact stands in the shape of the values of `state` it speaks of. -/
theorem shapeGivesTheSanityFacts : Obligations.ShapeGivesTheSanityFacts := by
  intro s hr
  refine ⟨fun ha => ?_, fun hs => (hr.pastPhases (by simp [hs])).1, fun hs => ?_, fun hs => ?_, hr.noStaleError⟩
  · rcases hr.buffer with ⟨-, hlen, -⟩ | ⟨k, hb⟩
    · exact hlen
    · exact absurd (ha.symm.trans hb.allocated) (by decide)
  · obtain ⟨t, ht, htag⟩ := hr.atPhase hs
    exact ⟨supported_of_phaseTable ht, t, ht, (List.getElem?_eq_some_iff.mp htag).1, htag⟩
  · obtain ⟨-, t, ht, hidx, -⟩ := hr.pastPhases hs
    exact ⟨t, ht, hidx⟩

/-- A full buffer has a value at every index: mirrored, an index below `data_len` is that of a payload byte (R166). -/
theorem BufferHolds.full {s : State} (h : BufferHolds s s.dataLen) (hl : configLegal s.cfg = true) {i : Nat}
    (hi : i < s.dataLen) : ∃ b, memRead s.buf i = some b := by
  have hw := h.written _ (h.inside i hi)
  rw [payloadIndex_involutive hl i] at hw
  exact Option.isSome_iff_exists.mp hw

/-- Settles O52: a terminal state has a full buffer or none. -/
theorem terminalPayloadIsReadable : Obligations.TerminalPayloadIsReadable := by
  intro s i hl hr hs hi
  rcases hr.terminal_buffer hs with ⟨-, hlen, -⟩ | hb
  · rw [hlen] at hi
    exact absurd hi (Nat.not_lt_zero i)
  · obtain ⟨b, hread⟩ := hb.full hl hi
    exact ⟨b, (bufReadReturnsWrittenBytes i s hl).1 b hi hread⟩

/-! ## What an error leaves -/

/-- A handler that ended in `Error` and otherwise would not have raised. -/
theorem eq_raise_of_error {s t : State} (h : isTerminal t = false ∨ t = s) (he : t.state = .error) : t = s :=
  h.resolve_left fun hn => (isTerminal_eq_false_iff.mp hn).2 he

/-- The quantity the error was raised on is 0 (D11). -/
theorem onQuantity_error {b : Byte} {s : State} (h : AtPhase s) (he : (onQuantity b s).state = .error) :
    (quantityWritten b s).quantity = 0 ∧ onQuantity b s = raiseError illegalDataValue (quantityWritten b s) := by
  rw [onQuantity_eq] at he ⊢
  split at he
  next hz =>
    rw [if_pos hz]
    simp only [Bool.and_eq_true, beq_iff_eq] at hz
    exact ⟨hz.2, rfl⟩
  next => exact absurd he (isTerminal_eq_false_iff.mp
    (AtPhase.advancePhase_not_terminal (s := quantityWritten b s) h)).2

/-- With nothing left to receive `SecondCRC` raises `CRCError` alone (R205). -/
theorem onSecondCRC_error {b : Byte} {s : State} (hd : s.dataToReceive = 0) (he : (onSecondCRC b s).state = .error) :
    onSecondCRC b s = raiseError crcError s := by
  unfold onSecondCRC at he ⊢
  rw [if_pos hd] at he ⊢
  split at he
  next => cases he
  next hb => exact if_neg hb

/-- Settles O30: handler by handler, what it raises and over which contents the shape says it does. -/
theorem errorRecordsByCause : Obligations.ErrorRecordsByCause := by
  intro b s t hr h he
  have hshape := hr.shape
  have hfeed := (withLegalConfig_next h).2
  cases hs : s.state <;> simp only [feedByte, hs] at hfeed <;> simp only [PhaseShape, hs] at hshape
  case data =>
    exact absurd he (isTerminal_eq_false_iff.mp (onData_not_terminal hshape.1 hfeed)).2
  all_goals cases hfeed
  case slaveAddress => exact absurd he (isTerminal_eq_false_iff.mp (onSlaveAddress_not_terminal b hs)).2
  case functionCode =>
    obtain ⟨⟨hfc, -⟩, -, halloc, -⟩ := hshape
    rw [eq_raise_of_error (onFunctionCode_entry b s) he]
    exact .inl ⟨rfl, rfl, hfc, rfl, halloc⟩
  case address => exact absurd he (isTerminal_eq_false_iff.mp (onAddress_not_terminal b hshape.1)).2
  case quantity =>
    obtain ⟨hphase, -, -, halloc, -⟩ := hshape
    obtain ⟨hq, heq⟩ := onQuantity_error hphase he
    rw [heq]
    exact .inr (.inl ⟨rfl, rfl, hq, rfl, rfl, halloc⟩)
  case byteCount =>
    obtain ⟨hphase, hbc, -, halloc, -⟩ := hshape
    rw [eq_raise_of_error (onByteCount_entry b hphase) he]
    exact .inr (.inr (.inl ⟨rfl, rfl, hbc, rfl, rfl, halloc⟩))
  case modbusException =>
    obtain ⟨⟨hfc, -⟩, -, halloc, -⟩ := hshape
    exact .inr (.inr (.inr (.inr ⟨rfl, rfl, hfc, rfl, halloc⟩)))
  case firstCRC =>
    rw [eq_raise_of_error (onFirstCRC_entry b s) he]
    exact .inr (.inr (.inr (.inl ⟨.inl rfl, rfl, rfl, rfl, rfl, rfl⟩)))
  case secondCRC =>
    rw [onSecondCRC_error hshape.1 he]
    exact .inr (.inr (.inr (.inl ⟨.inr rfl, rfl, rfl, rfl, rfl, rfl⟩)))
  all_goals
    exact absurd he (isTerminal_eq_false_iff.mp (onSlaveAddress_not_terminal b (resetBlock_state s))).2

end Sys2Proof.Machine
end

section
/-! The CRC fold: eight reflected iterations, a bijection of registers, and the residue of the register's own bytes. -/

namespace Sys2Proof.Machine

/-- `crcShifts` is the iterate of one shift. -/
theorem crcShifts_eq_iterate (n : Nat) (c : Word) : crcShifts n c = crcShift^[n] c := by
  induction n generalizing c with
  | zero => rfl
  | succ n ih => rw [crcShifts, ih, Function.iterate_succ_apply]

/-- The polynomial has bit 15 set and a shift to the right clears it: bit 15 tells whether the polynomial was taken. -/
theorem crcShift_msb (c : Word) : (crcShift c).getLsbD 15 = c.getLsbD 0 := by
  unfold crcShift
  split
  next h => rw [h, BitVec.getLsbD_xor, BitVec.getLsbD_ushiftRight]; simp
  next h => rw [Bool.not_eq_true] at h; rw [h, BitVec.getLsbD_ushiftRight]; simp

/-- A register is its bit 0 and the other bits. -/
theorem eq_of_bit0_of_shift {a b : Word} (h0 : a.getLsbD 0 = b.getLsbD 0) (hs : a >>> 1 = b >>> 1) : a = b := by
  apply BitVec.eq_of_getLsbD_eq
  intro i hi
  cases i with
  | zero => exact h0
  | succ i =>
    have hbit := congrArg (fun v : Word => v.getLsbD i) hs
    simpa [BitVec.getLsbD_ushiftRight, Nat.add_comm] using hbit

/-- One iteration loses nothing: the bit shifted out stands in bit 15. -/
theorem crcShift_injective : Function.Injective crcShift := by
  intro a b hab
  have h0 : a.getLsbD 0 = b.getLsbD 0 := by rw [← crcShift_msb a, ← crcShift_msb b, hab]
  refine eq_of_bit0_of_shift h0 ?_
  unfold crcShift at hab
  rw [h0] at hab
  split at hab
  · exact (BitVec.xor_left_inj _).mp hab
  · exact hab

theorem crcShifts_injective (n : Nat) : Function.Injective (crcShifts n) := by
  rw [funext (crcShifts_eq_iterate n)]
  exact crcShift_injective.iterate n

theorem crcShifts_zero (n : Nat) : crcShifts n 0 = 0 := by
  rw [crcShifts_eq_iterate]
  exact Function.iterate_fixed rfl n

/-- Bits that are clear are shifted out without the polynomial. -/
theorem crcShifts_of_clear (n : Nat) {c : Word} (h : ∀ i < n, c.getLsbD i = false) : crcShifts n c = c >>> n := by
  induction n generalizing c with
  | zero => rfl
  | succ n ih =>
    have hshift : crcShift c = c >>> 1 := by rw [crcShift, h 0 (Nat.succ_pos n)]; rfl
    have hclear : ∀ i < n, (c >>> 1).getLsbD i = false := fun i hi => by
      rw [BitVec.getLsbD_ushiftRight]
      exact h _ (by omega)
    rw [crcShifts, hshift, ih hclear, ← BitVec.shiftRight_add, Nat.add_comm]

/-- Folding the low byte clears it, so eight plain shifts bring the high byte down. -/
theorem crcFoldByte_lowByte (c : Word) : crcFoldByte c (lowByte c) = (highByte c).setWidth 16 := by
  have hclear : ∀ i < 8, (c ^^^ (lowByte c).setWidth 16).getLsbD i = false := fun i hi => by
    have hi16 : i < 16 := by omega
    simp [lowByte, hi, hi16]
  rw [crcFoldByte, crcShifts_of_clear 8 hclear]
  apply BitVec.eq_of_getLsbD_eq
  intro i hi
  by_cases h8 : i < 8
  · simp [lowByte, highByte, h8, hi]
  · have hout : c.getLsbD (8 + i) = false := BitVec.getLsbD_of_ge c (8 + i) (by omega)
    simp [lowByte, highByte, h8, hout]

/-- Folding a byte into itself leaves nothing. -/
theorem crcFoldByte_self (b : Byte) : crcFoldByte (b.setWidth 16) b = 0 := by
  rw [crcFoldByte, BitVec.xor_self]
  exact crcShifts_zero 8

theorem exec_crcFold_next {b : Byte} {s t : State} (h : exec (.crcFold b) s = .next t) : t = foldCrc b s := by
  obtain ⟨-, ⟨⟩⟩ := withLegalConfig_next h
  rfl

/-- Settles O8: the low byte's fold leaves the high byte, whose fold leaves nothing. -/
theorem crcOfOwnBytesIsZero : Obligations.CrcOfOwnBytesIsZero := by
  intro s t u _ ht hu
  rw [exec_crcFold_next hu, exec_crcFold_next ht, foldCrc_crc, foldCrc_crc, crcFoldByte_lowByte, crcFoldByte_self]

/-- Settles O9: the shifts are injective, and so is XOR in either operand; on registers injective is bijective. -/
theorem crcFoldIsBijective : Obligations.CrcFoldIsBijective := by
  refine ⟨fun b => Finite.injective_iff_bijective.mp fun c d h => ?_, fun c a b h => ?_⟩
  · exact (BitVec.xor_left_inj _).mp (crcShifts_injective 8 h)
  · have hwide := (BitVec.xor_right_inj _).mp (crcShifts_injective 8 h)
    have hlow := congrArg (BitVec.setWidth 8) hwide
    simpa using hlow

/-- Settles O6: the model's loop is the iterate of the same shift. -/
theorem crcFoldIsEightReflectedIterations : Obligations.CrcFoldIsEightReflectedIterations := by
  intro b s hl
  have hexec : exec (.crcFold b) s = .next (foldCrc b s) := withLegalConfig_of_legal hl
  rw [hexec, foldCrc, crcFoldByte, crcShifts_eq_iterate]
  rfl

/-- Settles O7: the register is handed back, and only the latch is written. -/
theorem crcValueReturnsTheAccumulator : Obligations.CrcValueReturnsTheAccumulator :=
  fun _ hl => withLegalConfig_of_legal hl

end Sys2Proof.Machine
end

section
/-! Reset, configuration, dispatch and accessors: what the one-operation instructions do. -/

namespace Sys2Proof.Machine

/-! ## Reset and configuration -/

/-- Settles O1: the reset table, register by register. -/
theorem powerOnHoldsTheResetTable : Obligations.PowerOnHoldsTheResetTable :=
  ⟨rfl, fun _ => ⟨rfl, rfl, rfl, rfl, rfl, rfl, fun _ => rfl, rfl, rfl, rfl, rfl, rfl, rfl, rfl, rfl, rfl, rfl, rfl,
    rfl, rfl⟩⟩

/-- Settles O2: the block's reset forgets all but configuration and boundary. -/
theorem resetReturnsToPowerOn : Obligations.ResetReturnsToPowerOn := fun _ hl => withLegalConfig_of_legal hl

/-- Settles O3. -/
theorem nopChangesNothing : Obligations.NopChangesNothing := fun _ hl => withLegalConfig_of_legal hl

theorem configLegal_iff (c : Config) : configLegal c = true ↔
    c.mySlaveAddress.toNat ≤ 247 ∧ ¬(c.swapRegisters = true ∧ c.registerSize = 0) := by
  cases hs : c.swapRegisters <;> simp [configLegal, hs]

/-- Every instruction's meaning stands under the test of the configuration (R40). -/
theorem exec_of_illegal (i : Instr) {s : State} (h : configLegal s.cfg = false) :
    exec i s = .refused .illegalConfiguration := by
  cases i <;> exact withLegalConfig_of_illegal h

/-- Settles O4: the test as the rules word it, and its refusal instruction by instruction. -/
theorem illegalConfigurationHasNoMeaning : Obligations.IllegalConfigurationHasNoMeaning :=
  ⟨configLegal_iff, fun i _ h => exec_of_illegal i h⟩

/-! ## Dispatch -/

theorem exec_dispatchFor_some {s : State} (hl : configLegal s.cfg = true) {role : Role} {fc : Byte}
    {t : List ParserState} (ht : phaseTable role fc = some t) :
    exec (.dispatchFor role fc) s = .next { s with returned := .table t } := by
  have hexec : exec (.dispatchFor role fc) s = _ := withLegalConfig_of_legal hl
  rw [hexec, ht]
  rfl

theorem exec_dispatchFor_none {s : State} (hl : configLegal s.cfg = true) {role : Role} {fc : Byte}
    (ht : phaseTable role fc = none) : exec (.dispatchFor role fc) s = .refused .noDispatchTable := by
  have hexec : exec (.dispatchFor role fc) s = _ := withLegalConfig_of_legal hl
  rw [hexec, ht]

/-- Settles O15: the sixteen pairs read off the tables, and no table for any other code. -/
theorem dispatchForSelectsTheSixTables : Obligations.DispatchForSelectsTheSixTables := by
  intro s hl
  have hBC : ∀ fc ∈ ([0x01, 0x02, 0x03, 0x04] : List Byte),
      phaseTable .response fc = some [.byteCount, .data] := by decide
  have hAV : ∀ role, ∀ fc ∈ ([0x05, 0x06] : List Byte),
      phaseTable role fc = some [.address, .address, .data] := by intro role; cases role <;> decide
  have hAQ : ∀ fc ∈ ([0x0F, 0x10] : List Byte),
      phaseTable .response fc = some [.address, .address, .quantity, .quantity] := by decide
  have hAQ' : ∀ fc ∈ ([0x01, 0x02, 0x03, 0x04] : List Byte),
      phaseTable .request fc = some [.address, .address, .quantity, .quantity] := by decide
  have hAQBD : ∀ fc ∈ ([0x0F, 0x10] : List Byte),
      phaseTable .request fc = some [.address, .address, .quantity, .quantity, .byteCount, .data] := by decide
  exact ⟨fun fc h => exec_dispatchFor_some hl (hBC fc h), fun role fc h => exec_dispatchFor_some hl (hAV role fc h),
    fun fc h => exec_dispatchFor_some hl (hAQ fc h), fun fc h => exec_dispatchFor_some hl (hAQ' fc h),
    fun fc h => exec_dispatchFor_some hl (hAQBD fc h),
    fun role fc h => exec_dispatchFor_none hl (phaseTable_eq_none h role)⟩

/-- Settles O16: one equation per place of the new index in the table. -/
theorem advanceStepsThroughTheTable : Obligations.AdvanceStepsThroughTheTable := by
  intro s hl
  have hexec : exec .advance s = .next (advancePhase s) := withLegalConfig_of_legal hl
  rw [hexec]
  refine ⟨⟨_, rfl⟩, fun tags ht => ⟨fun hlast => ?_, fun hlt => ?_⟩⟩
  · rw [advancePhase_last ht hlast]
  · rw [advancePhase, stateAtPhase_of_tag ht (List.getElem?_eq_getElem hlt)]

/-! ## Accessors -/

/-- Settles O60: each accessor is a field; `data()` maps the memory over its indices. -/
theorem accessorsReadTheState : Obligations.AccessorsReadTheState := by
  intro s
  have hcode : ∀ p, s.state = p → accState s = stateCode p := fun _ h => congrArg stateCode h
  refine ⟨⟨hcode _, hcode _, hcode _, hcode _, hcode _, hcode _, hcode _, hcode _, hcode _, hcode _, hcode _⟩,
    rfl, rfl, rfl, rfl, rfl, rfl, rfl, ?_, fun i hi => ?_, rfl, rfl⟩
  · simp [accData]
  · simp [accData, hi]

end Sys2Proof.Machine
end

section
/-! The engine's handlers as instructions (43_engine.md section 2). -/

namespace Sys2Proof

/-- The second CRC byte on the wire, as R205 words it. -/
theorem crcSecond_eq_ite (e : Endianness) (c : Word) :
    crcSecond e c = if e = .big then highByte c else lowByte c := by
  cases e <;> rfl

namespace Machine

/-! ## Address, function code, fields -/

/-- Settles O17: the handler is the address test. -/
theorem slaveAddressRecordsOrIgnores : Obligations.SlaveAddressRecordsOrIgnores := by
  intro b s hl
  have hexec : exec (.hSlaveAddress b) s = .next (onSlaveAddress b s) := withLegalConfig_of_legal hl
  rw [hexec, onSlaveAddress, ← acceptsAddress_iff]
  refine ⟨fun h => ?_, fun h => ?_⟩
  · rw [if_pos h]
    rfl
  · rw [if_neg h]

/-- Bit 7 in plain arithmetic. -/
theorem msb_iff (b : Byte) : b.msb = true ↔ 0x80 ≤ b.toNat := by
  rw [BitVec.msb_eq_decide, decide_eq_true_iff]

/-- The first tag of each table (R182 to R187). -/
theorem stateAtPhase_zero (role : Role) : ∀ b ∈ supportedCodes, stateAtPhase role b 0 =
    if role = .response ∧ b ∈ ([0x01, 0x02, 0x03, 0x04] : List Byte) then .byteCount else .address := by
  cases role <;> decide

/-- No supported code has bit 7 set (R110, R112). -/
theorem msb_of_supported : ∀ b ∈ supportedCodes, b.msb = false := by decide

/-- The three classes of the handler, in its order (R198). -/
theorem onFunctionCode_of_msb {b : Byte} (s : State) (h : b.msb = true) :
    onFunctionCode b s = { s with state := .modbusException } := if_pos h

theorem onFunctionCode_of_supported {b : Byte} (s : State) (h : b ∈ supportedCodes) :
    onFunctionCode b s = { foldCrc b s with
      functionCode := b, phaseIdx := 0, state := stateAtPhase s.cfg.role b 0 } := by
  rw [onFunctionCode, msb_of_supported b h, if_neg Bool.false_ne_true, if_pos ((supportedCodes_contains b).mpr h)]

theorem onFunctionCode_of_illegal {b : Byte} (s : State) (hm : b.msb = false) (h : b ∉ supportedCodes) :
    onFunctionCode b s = raiseError illegalFunction s := by
  rw [onFunctionCode, hm, if_neg Bool.false_ne_true, if_neg (mt (supportedCodes_contains b).mp h)]

/-- Settles O18: the three classes, with the first tag of each table. -/
theorem functionCodeClassifies : Obligations.FunctionCodeClassifies := by
  intro b s hl
  have hexec : exec (.hFunctionCode b) s = .next (onFunctionCode b s) := withLegalConfig_of_legal hl
  rw [hexec]
  refine ⟨fun h => ?_, fun h => ?_, fun hlow h => ?_⟩
  · rw [onFunctionCode_of_msb s ((msb_iff b).mpr h)]
  · rw [onFunctionCode_of_supported s h, stateAtPhase_zero s.cfg.role b h]
    rfl
  · have hm : b.msb = false := by
      rw [← Bool.not_eq_true, msb_iff]
      omega
    rw [onFunctionCode_of_illegal s hm h]
    rfl

/-- Which half a byte is written to, the first byte of its field being known by `P` (R199, D30). -/
theorem writeHalf_eq_ite (e : Endianness) {first : Bool} {P : Prop} [Decidable (P ↔ e = .big)]
    (h : first = true ↔ P) (f : Word) (b : Byte) :
    writeHalf e first f b = if (P ↔ e = .big) then joinBytes b (lowByte f) else joinBytes (highByte f) b := by
  obtain rfl : (first = true) = P := propext h
  cases e <;> cases first <;> simp [writeHalf]

/-- The address bytes are the phases 0 and 1 (R182 to R187). -/
theorem address_phase {role : Role} {fc : Byte} {t : List ParserState} {p : Nat} (ht : phaseTable role fc = some t)
    (hp : t[p]? = some .address) : p = 0 ∨ p = 1 := by
  have hall : ∀ i : Fin t.length, t[i] = .address → i.val = 0 ∨ i.val = 1 := by
    rcases phaseTable_contents ht with rfl | rfl | rfl | rfl <;> decide
  obtain ⟨hlt, htag⟩ := List.getElem?_eq_some_iff.mp hp
  exact hall ⟨p, hlt⟩ htag

/-- The quantity bytes are the phases 2 and 3. -/
theorem quantity_phase {role : Role} {fc : Byte} {t : List ParserState} {p : Nat} (ht : phaseTable role fc = some t)
    (hp : t[p]? = some .quantity) : p = 2 ∨ p = 3 := by
  have hall : ∀ i : Fin t.length, t[i] = .quantity → i.val = 2 ∨ i.val = 3 := by
    rcases phaseTable_contents ht with rfl | rfl | rfl | rfl <;> decide
  obtain ⟨hlt, htag⟩ := List.getElem?_eq_some_iff.mp hp
  exact hall ⟨p, hlt⟩ htag

/-- Settles O19: the half by the phase's parity, then the advance inside the table. -/
theorem addressWritesItsHalf : Obligations.AddressWritesItsHalf := by
  intro b s tags hl ht hp
  have hexec : exec (.hAddress b) s = .next (onAddress b s) := withLegalConfig_of_legal hl
  have hfirst : isFirstByte s.phaseIdx = true ↔ s.phaseIdx = 0 := by
    rcases address_phase ht hp with h | h <;> simp [h, isFirstByte]
  have hlt := (List.getElem?_eq_some_iff.mp hp).1
  rw [hexec, onAddress, writeHalf_eq_ite _ hfirst, advancePhase_eq (s := foldCrc b { s with address := _ }) ht hlt]
  rfl

/-- Settles O20: the half by the phase's parity, then the zero test on the second byte, then the advance. -/
theorem quantityRejectsZero : Obligations.QuantityRejectsZero := by
  intro b s tags q hl ht hp hq
  have hexec : exec (.hQuantity b) s = .next (onQuantity b s) := withLegalConfig_of_legal hl
  have hfirst : isFirstByte s.phaseIdx = true ↔ s.phaseIdx = 2 := by
    rcases quantity_phase ht hp with h | h <;> simp [h, isFirstByte]
  have hsecond : (!isFirstByte s.phaseIdx) = true ↔ s.phaseIdx = 3 := by
    rcases quantity_phase ht hp with h | h <;> simp [h, isFirstByte]
  have hwritten : quantityWritten b s = foldCrc b { s with quantity := q } := by
    rw [hq, quantityWritten, writeHalf_eq_ite _ hfirst]
  have hlt := (List.getElem?_eq_some_iff.mp hp).1
  have hzero : (!isFirstByte s.phaseIdx && (foldCrc b { s with quantity := q }).quantity == 0) = true ↔
      s.phaseIdx = 3 ∧ q = 0 := by
    rw [Bool.and_eq_true, hsecond, beq_iff_eq]
    rfl
  rw [hexec, onQuantity_eq, hwritten]
  refine ⟨fun h3 h0 => ?_, fun hn => ?_⟩
  · rw [if_pos (hzero.mpr ⟨h3, h0⟩)]
    rfl
  · rw [if_neg (mt hzero.mp hn), advancePhase_eq (s := foldCrc b { s with quantity := q }) ht hlt]
    rfl

/-! ## The ends of a frame -/

/-- Settles O23: the handler is the error entry. -/
theorem modbusExceptionRaisesItsByte : Obligations.ModbusExceptionRaisesItsByte :=
  fun _ _ hl => withLegalConfig_of_legal hl

/-- Settles O25: the comparison first, then the count (D27). -/
theorem secondCrcComparesAndCompletes : Obligations.SecondCrcComparesAndCompletes := by
  intro b s hl
  have hexec : exec (.hSecondCRC b) s = .next (onSecondCRC b s) := withLegalConfig_of_legal hl
  rw [hexec, ← crcSecond_eq_ite, onSecondCRC]
  refine ⟨fun hne => ?_, fun heq => ⟨fun hd => ?_, fun hd => ?_⟩⟩
  · rw [if_neg hne]
    rfl
  · rw [if_pos heq, if_neg hd]
    rfl
  · rw [if_pos heq, if_pos hd]
    rfl

/-- Settles O26: FEED is `feedByte` under the same test of the configuration as the handlers. -/
theorem feedRunsTheHandlerOfState : Obligations.FeedRunsTheHandlerOfState := by
  intro b s
  have hexec : ∀ r, feedByte b s = r → exec (.feed b) s = withLegalConfig s r := fun _ h =>
    congrArg (withLegalConfig s) h
  refine ⟨fun hs => hexec _ ?_, fun hs => hexec _ ?_, fun hs => hexec _ ?_, fun hs => hexec _ ?_,
    fun hs => hexec _ ?_, fun hs => hexec _ ?_, fun hs => hexec _ ?_, fun hs => hexec _ ?_, fun hs => hexec _ ?_,
    fun hs => hexec (.next (onSlaveAddress b (resetBlock s))) ?_⟩
  case refine_10 => rcases hs with hs | hs <;> simp only [feedByte, hs]
  all_goals simp only [feedByte, hs]

/-! ## The payload byte -/

theorem bufferOf_finishData (b : Byte) (s : State) : bufferOf (finishData b s) = bufferOf s := bufferOf_ite rfl rfl

/-- What an allocation or a store of the `Data` handler never writes (R202). -/
def dataKept (s : State) : Config × Byte × Byte × Word × Word × Byte × Byte × List FetchItem ×
    Option Delivery × List Event × Returned :=
  (s.cfg, s.slaveAddress, s.functionCode, s.address, s.quantity, s.byteCount, s.error, s.script, s.delivery, s.events,
    s.returned)

theorem dataKept_onData (b : Byte) (s : State) :
    dataKept (finishData b (storeByte b (enterData s))) = dataKept s := by
  have hfinish : ∀ u : State, dataKept (finishData b u) = dataKept u := fun u => by
    dsimp only [finishData]
    split <;> rfl
  have henter : dataKept (enterData s) = dataKept s := by
    unfold enterData
    split <;> rfl
  rw [hfinish, storeByte_frame]
  exact henter

/-- The buffer a payload byte is stored in: the one there is, or a new one (R202). -/
theorem enterData_buffer (s : State) :
    (enterData s).dataToReceive = (if s.bufAlloc = false ∧ s.dataToReceive = 0 then 2 else s.dataToReceive) ∧
    (enterData s).bufAlloc = true ∧
    (enterData s).dataLen = (if s.bufAlloc then s.dataLen
      else if s.bufAlloc = false ∧ s.dataToReceive = 0 then 2 else s.dataToReceive) ∧
    (enterData s).wptr = (if s.bufAlloc then s.wptr
      else if s.cfg.swapRegisters then s.cfg.registerSize.toNat - 1 else 0) ∧
    (enterData s).rcnt = (if s.bufAlloc then s.rcnt
      else if s.cfg.swapRegisters then s.cfg.registerSize.toNat else 0) ∧
    ∀ i, memRead (enterData s).buf i = if s.bufAlloc then memRead s.buf i else none := by
  cases h : s.bufAlloc <;> simp [enterData, h]

/-- The accumulator, the count and the place in the table after a payload byte. -/
theorem finishData_storeByte_dispatch (b : Byte) {u : State} {tags : List ParserState} (h0 : 0 < u.dataToReceive)
    (ht : phaseTable u.cfg.role u.functionCode = some tags) (hlast : u.phaseIdx + 1 = tags.length) :
    (finishData b (storeByte b u)).crc = crcFoldByte u.crc b ∧
    (finishData b (storeByte b u)).dataToReceive + 1 = u.dataToReceive ∧
    (u.dataToReceive = 1 → (finishData b (storeByte b u)).state = .firstCRC ∧
      (finishData b (storeByte b u)).phaseIdx = u.phaseIdx + 1) ∧
    (u.dataToReceive ≠ 1 → (finishData b (storeByte b u)).state = u.state ∧
      (finishData b (storeByte b u)).phaseIdx = u.phaseIdx) := by
  rcases Nat.lt_or_eq_of_le (Nat.succ_le_of_lt h0) with hmore | hone
  · rw [finishData_storeByte_more b hmore, receiveByte_frame]
    exact ⟨rfl, by simp only; omega, fun h1 => by omega, fun _ => ⟨rfl, rfl⟩⟩
  · rw [finishData_storeByte_last b hone.symm, advancePhase_last (by simpa using ht) (by simpa using hlast),
      receiveByte_frame]
    exact ⟨rfl, by simp only; omega, fun _ => ⟨rfl, rfl⟩, fun hne => absurd hone.symm hne⟩

/-- Settles O22: the byte goes where BUF.WRITE would put it in the buffer there is or the one made for it; then it is
folded and counted. -/
theorem dataStoresFoldsAndCounts : Obligations.DataStoresFoldsAndCounts := by
  intro b s tags n len w rc hl ht hlast hpos hn hlen hw hrc
  have hexec : exec (.hData b) s = onData b s := withLegalConfig_of_legal hl
  have hcfg := enterData_cfg s
  obtain ⟨hun, hualloc, hulen, huw, hurc, hubuf⟩ := enterData_buffer s
  rw [← hn] at hun hulen
  rw [← hlen] at hulen
  rw [← hw] at huw
  rw [← hrc] at hurc
  have h0 : 0 < (enterData s).dataToReceive := by
    rw [hun, hn]
    split
    · omega
    next hnot =>
      cases ha : s.bufAlloc with
      | true => exact hpos ha
      | false => exact Nat.pos_of_ne_zero fun hz => hnot ⟨ha, hz⟩
  obtain ⟨hfcrc, hfcount, hfone, hfmore⟩ := finishData_storeByte_dispatch b h0 (by simpa using ht)
    (by simpa using hlast)
  have hbuf := bufferOf_finishData b (storeByte b (enterData s))
  have hkept := dataKept_onData b s
  simp only [bufferOf, Prod.mk.injEq] at hbuf
  simp only [dataKept, Prod.mk.injEq] at hkept
  obtain ⟨halloc', hlen', hw', hrc', hm'⟩ := hbuf
  rw [hexec]
  refine ⟨fun hout => onData_of_outside b (by rwa [hulen, huw]), fun hin =>
    ⟨_, onData_of_inside b (by rwa [hulen, huw]), ?_, ?_, ?_, fun i hi => ?_, fun hs => ?_, fun hs h1 => ?_,
      fun hs h1 hw0 hr0 => ?_, ?_, ?_, fun h1 => ?_, fun h1 => ?_, hkept⟩⟩
  · rw [halloc', storeByte_bufAlloc, hualloc]
  · rw [hlen', storeByte_dataLen, hulen]
  · rw [hm', storeByte_buf, huw, memRead_memWrite_same]
  · rw [hm', storeByte_buf, huw, memRead_memWrite_ne _ _ hi, hubuf]
  · rw [hw', hrc', ← huw, ← hurc]
    exact storeByte_linear b (by rw [hcfg]; exact hs)
  · rw [hw', hrc', ← huw, ← hcfg]
    exact storeByte_swap_end b (by rw [hcfg]; exact hs) (hurc.trans h1)
  · rw [hw', hrc', ← huw, ← hurc]
    exact storeByte_swap_inside b (by rw [hcfg]; exact hs) (by rwa [hurc]) (by rwa [huw]) (by rwa [hurc])
  · rw [hfcrc, enterData_crc]
  · rw [hfcount, hun]
  · rw [← enterData_phaseIdx s]
    exact hfone (hun.trans h1)
  · rw [← enterData_phaseIdx s, ← enterData_state s]
    exact hfmore (by rwa [hun])

end Machine

end Sys2Proof
end

section
/-! FEEDN (46_host_interface.md section 2): where its steps lead, in chunks, and against the FEED commands it
stands for. -/

namespace Sys2Proof.Machine

/-! ## The loop over its bytes -/

/-- A run of the loop with its end state changed by `g` and `n` bytes more consumed. -/
def mapRun (g : State → State) (n : Nat) :
    Host.Outcome (State × Nat) Fault Refusal → Host.Outcome (State × Nat) Fault Refusal
  | .next (u, m) => .next (g u, m + n)
  | .fault f => .fault f
  | .refused r => .refused r

/-- A byte that does not end in `Error` is followed by the rest, one byte more consumed. -/
theorem feedBytes_cons_eq_mapRun {b : Byte} {bs : List Byte} {s t : State} (h : feedByte b s = .next t)
    (he : t.state ≠ .error) : feedBytes (b :: bs) s = mapRun id 1 (feedBytes bs t) := by
  rw [feedBytes_cons h he]
  cases feedBytes bs t <;> rfl

theorem mapRun_id_add (m n : Nat) (r : Host.Outcome (State × Nat) Fault Refusal) :
    mapRun id n (mapRun id m r) = mapRun id (m + n) r := by
  cases r with
  | next p => simp [mapRun, Nat.add_assoc]
  | fault f => rfl
  | refused x => rfl

/-- The loop over two chunks, the first not ending in `Error`: all of it is consumed, then the loop goes on. -/
theorem feedBytes_append {bs cs : List Byte} {s u : State} {n : Nat} (h : feedBytes bs s = .next (u, n))
    (he : u.state ≠ .error) : n = bs.length ∧ feedBytes (bs ++ cs) s = mapRun id n (feedBytes cs u) := by
  induction bs generalizing s n with
  | nil =>
    cases h
    refine ⟨rfl, ?_⟩
    rw [List.nil_append]
    cases feedBytes cs u <;> rfl
  | cons b bs ih =>
    cases hb : feedByte b s with
    | fault f => simp [feedBytes, hb] at h
    | refused r => exact absurd hb (feedByte_ne_refused b s r)
    | next t =>
      by_cases ht : t.state = .error
      · rw [feedBytes_cons_error hb ht] at h
        cases h
        exact absurd ht he
      · rw [feedBytes_cons_eq_mapRun hb ht] at h
        cases hr : feedBytes bs t with
        | fault f => rw [hr] at h; cases h
        | refused r => rw [hr] at h; cases h
        | next p =>
          rw [hr] at h
          cases h
          obtain ⟨hlen, happ⟩ := ih hr
          refine ⟨congrArg (· + 1) hlen, ?_⟩
          rw [List.cons_append, feedBytes_cons_eq_mapRun hb ht, happ, mapRun_id_add]

/-- The loop does the same whatever stands in the boundary fields, and leaves them there. -/
theorem feedBytes_withBoundary (c : List FetchItem) (d : Option Delivery) (r : Returned) (bs : List Byte) (s : State) :
    feedBytes bs (withBoundary c d r s) = mapRun (withBoundary c d r) 0 (feedBytes bs s) := by
  induction bs generalizing s with
  | nil => rfl
  | cons b bs ih =>
    have hw := feedByte_withBoundary b c d r s
    cases hb : feedByte b s with
    | fault f =>
      rw [hb] at hw
      simp [feedBytes, hb, hw, mapRun]
    | refused x => exact absurd hb (feedByte_ne_refused b s x)
    | next t =>
      rw [hb, andThen_next] at hw
      by_cases ht : t.state = .error
      · rw [feedBytes_cons_error hb ht, feedBytes_cons_error hw ht]
        rfl
      · rw [feedBytes_cons_eq_mapRun hb ht, feedBytes_cons_eq_mapRun hw ht, ih t]
        cases feedBytes bs t <;> rfl

/-! ## A composite has one end -/

/-- A fault comes from a legal configuration and from the guarded answer. -/
theorem withLegalConfig_fault {s : State} {r : Result} {f : Fault} (h : withLegalConfig s r = .fault f) :
    configLegal s.cfg = true ∧ r = .fault f := by
  unfold withLegalConfig at h
  split at h
  · exact ⟨‹_›, h⟩
  · cases h

theorem FaultsIn.unique {t : State} {f g : Fault} {j k : Nat} (h : FaultsIn j t f) (h' : FaultsIn k t g) : f = g := by
  induction j generalizing t k with
  | zero => exact h.elim
  | succ j ih =>
    cases k with
    | zero => exact h'.elim
    | succ k =>
      rcases h with ⟨-, ⟨hf, -⟩ | ⟨v, hv, hf⟩⟩ <;> rcases h' with ⟨-, ⟨hg, -⟩ | ⟨w, hw, hg⟩⟩
      · rw [hf] at hg; cases hg; rfl
      · rw [hf] at hw; cases hw
      · rw [hv] at hg; cases hg
      · rw [hv] at hw; cases hw; exact ih hf hg

theorem Finishes.unique {i : Instr} {s u v : State} (h : Finishes i s u) (h' : Finishes i s v) : u = v := by
  obtain ⟨j, t, ht, h⟩ := h
  obtain ⟨k, t', ht', h'⟩ := h'
  rw [ht] at ht'
  cases ht'
  exact (h.unique h').2

theorem Finishes.not_faults {i : Instr} {s u : State} {f : Fault} (h : Finishes i s u) : ¬Faults i s f := by
  obtain ⟨j, t, ht, h⟩ := h
  rintro (hf | ⟨k, t', ht', hf⟩)
  · rw [ht] at hf; cases hf
  · rw [ht] at ht'; cases ht'; exact h.not_faults hf

theorem Faults.unique {i : Instr} {s : State} {f g : Fault} (h : Faults i s f) (h' : Faults i s g) : f = g := by
  rcases h with hf | ⟨j, t, ht, hf⟩ <;> rcases h' with hg | ⟨k, t', ht', hg⟩
  · rw [hf] at hg; cases hg; rfl
  · rw [hf] at ht'; cases ht'
  · rw [ht] at hg; cases hg
  · rw [ht] at ht'; cases ht'; exact hf.unique hg

/-! ## The steps of a FEEDN lead where its loop does -/

theorem finishes_feedn_of_feedBytes {bs : List Byte} {s w : State} {n : Nat} (hl : configLegal s.cfg = true)
    (h : feedBytes bs s = .next (w, n)) : Finishes (.feedn bs) s (endDelivery .feedn n w) := by
  have hexec : exec (.feedn bs) s = deliver .feedn 0 bs s := withLegalConfig_of_legal hl
  by_cases hbs : bs = []
  · subst hbs
    cases h
    exact ⟨0, _, hexec, endDelivery_delivery _ _ _, rfl⟩
  · obtain ⟨j, t, -, ht, hfin⟩ := deliver_finishes (k := .feedn) (n := 0) hl hbs h
    exact ⟨j, t, hexec.trans ht, by rwa [Nat.zero_add] at hfin⟩

theorem faults_feedn_of_feedBytes {bs : List Byte} {s : State} {f : Fault} (hl : configLegal s.cfg = true)
    (h : feedBytes bs s = .fault f) : Faults (.feedn bs) s f := by
  have hexec : exec (.feedn bs) s = deliver .feedn 0 bs s := withLegalConfig_of_legal hl
  rw [Faults, hexec]
  exact deliver_faults hl h

theorem finishes_feedn_iff {bs : List Byte} {s u : State} : Finishes (.feedn bs) s u ↔
    configLegal s.cfg = true ∧ ∃ w n, feedBytes bs s = .next (w, n) ∧ u = endDelivery .feedn n w := by
  refine ⟨fun h => ?_, fun ⟨hl, w, n, hw, hu⟩ => hu ▸ finishes_feedn_of_feedBytes hl hw⟩
  obtain ⟨k, t, ht, -⟩ := id h
  have hl := (withLegalConfig_next ht).1
  cases hr : feedBytes bs s with
  | next p => exact ⟨hl, p.1, p.2, rfl, h.unique (finishes_feedn_of_feedBytes hl hr)⟩
  | fault f => exact absurd (faults_feedn_of_feedBytes hl hr) h.not_faults
  | refused r => exact absurd hr (feedBytes_ne_refused bs s r)

theorem faults_feedn_iff {bs : List Byte} {s : State} {f : Fault} : Faults (.feedn bs) s f ↔
    configLegal s.cfg = true ∧ feedBytes bs s = .fault f := by
  refine ⟨fun h => ?_, fun ⟨hl, hf⟩ => faults_feedn_of_feedBytes hl hf⟩
  have hl : configLegal s.cfg = true := by
    rcases id h with hf | ⟨k, t, ht, -⟩
    · exact (withLegalConfig_fault hf).1
    · exact (withLegalConfig_next ht).1
  cases hr : feedBytes bs s with
  | next p => exact absurd h (finishes_feedn_of_feedBytes hl hr).not_faults
  | fault g => exact ⟨hl, congrArg _ ((faults_feedn_of_feedBytes hl hr).unique h)⟩
  | refused r => exact absurd hr (feedBytes_ne_refused bs s r)

/-! ## Linear mode -/

/-- In linear mode the next payload byte of a reachable state is inside the allocation, so FEED answers. -/
theorem feedByte_linear {s : State} (b : Byte) (hl : configLegal s.cfg = true) (hlin : s.cfg.swapRegisters = false)
    (hr : ReachableShape s) : ∃ t, feedByte b s = .next t := by
  by_cases hs : s.state = .data
  · obtain ⟨vs, hrec, h0⟩ := hr.receiving hl hs
    have hcursor := hrec.stored.cursor
    have hremaining := hrec.remaining
    rw [enterData_cfg, payloadIndex_linear hlin] at hcursor
    exact ⟨_, (feedByte_of_data hs).trans (onData_of_inside b (by omega))⟩
  · exact feedByte_answers b hs

theorem feedBytes_linear (bs : List Byte) : ∀ {s : State}, configLegal s.cfg = true →
    s.cfg.swapRegisters = false → ReachableShape s →
    ∃ u n, feedBytes bs s = .next (u, n) ∧ n ≤ bs.length ∧ (n < bs.length → u.state = .error) := by
  induction bs with
  | nil => exact fun _ _ _ => ⟨_, 0, rfl, Nat.le_refl _, fun h => absurd h (Nat.lt_irrefl _)⟩
  | cons b bs ih =>
    intro s hl hlin hr
    obtain ⟨t, ht⟩ := feedByte_linear b hl hlin hr
    by_cases he : t.state = .error
    · exact ⟨t, 1, feedBytes_cons_error ht he, by simp, fun _ => he⟩
    · obtain ⟨hcfg, -⟩ := feedByte_keeps ht
      obtain ⟨u, n, hu, hle, herr⟩ := ih (hcfg.symm ▸ hl) (hcfg.symm ▸ hlin) (reachable_feedByte hr hl ht)
      refine ⟨u, n + 1, ?_, Nat.succ_le_succ hle, fun hlt => herr (Nat.lt_of_succ_lt_succ hlt)⟩
      rw [feedBytes_cons_eq_mapRun ht he, hu]
      rfl

/-- Settles O33: every byte answers, so the loop ends, and the steps end where it does. -/
theorem feednCompletesInLinearMode : Obligations.FeednCompletesInLinearMode := by
  intro bs s hl hlin hr
  have hexec : exec (.feedn bs) s = deliver .feedn 0 bs s := withLegalConfig_of_legal hl
  by_cases hbs : bs = []
  · subst hbs
    exact ⟨_, 0, _, 0, hexec, ⟨rfl, rfl⟩, rfl, Nat.le_refl _, fun h => absurd h (Nat.lt_irrefl _),
      fun h => absurd rfl h, fun _ => ⟨rfl, rfl⟩⟩
  · obtain ⟨u, n, hu, hle, herr⟩ := feedBytes_linear bs hl hlin hr
    obtain ⟨j, t, hn, ht, hfin⟩ := deliver_finishes (k := .feedn) (n := 0) hl hbs hu
    refine ⟨t, j, _, n, hexec.trans ht, hfin, ?_, hle, fun hlt => ?_, fun _ => hn, fun h => absurd h hbs⟩
    · rw [endDelivery_feedn_returned, Nat.zero_add]
    · rw [endDelivery_state]
      exact herr hlt

/-! ## Chunks -/

/-- The loop leaves the script alone. -/
theorem feedBytes_script {bs : List Byte} {s u : State} {n : Nat} (h : feedBytes bs s = .next (u, n)) :
    u.script = s.script :=
  feedBytes_preserves (fun t => t.script = s.script) (fun _ _ _ ht h => (feedByte_keeps h).2.1.trans ht) bs s u n rfl h

/-- Settles O34: the loop over two chunks is the loop over both, and the latch and the composite in progress between
them are boundary fields, which no FEED reads. -/
theorem chunkingIsAssociative : Obligations.ChunkingIsAssociative := by
  intro bs cs s u n hfin hret hne
  obtain ⟨hl, w, n', hw, rfl⟩ := finishes_feedn_iff.mp hfin
  rw [endDelivery_feedn_returned] at hret
  cases hret
  rw [endDelivery_state] at hne
  obtain ⟨hlen, happ⟩ := feedBytes_append (cs := cs) hw hne
  have hcs : feedBytes cs (endDelivery .feedn n w) =
      mapRun (withBoundary w.script none (.count n)) 0 (feedBytes cs w) :=
    feedBytes_withBoundary w.script none (.count n) cs w
  refine ⟨hlen, fun v m hv hm => ?_, fun f hf => ?_⟩
  · obtain ⟨-, x, m', hx, rfl⟩ := finishes_feedn_iff.mp hv
    rw [endDelivery_feedn_returned] at hm
    cases hm
    rw [hcs] at hx
    cases hr : feedBytes cs w with
    | fault f => rw [hr] at hx; cases hx
    | refused r => rw [hr] at hx; cases hx
    | next p =>
      obtain ⟨y, k⟩ := p
      rw [hr] at hx happ
      cases hx
      refine finishes_feedn_iff.mpr ⟨hl, y, k + n, happ, ?_⟩
      rw [Nat.add_comm k n]
      show ({ y with script := w.script, delivery := none, returned := .count (n + k) } : State) =
        { y with delivery := none, returned := .count (n + k) }
      rw [← feedBytes_script hr]
  · obtain ⟨-, hx⟩ := faults_feedn_iff.mp hf
    rw [hcs] at hx
    cases hr : feedBytes cs w with
    | next p => rw [hr] at hx; cases hx
    | refused r => rw [hr] at hx; cases hx
    | fault g =>
      rw [hr] at hx happ
      cases hx
      exact faults_feedn_iff.mpr ⟨hl, happ⟩

/-! ## Step by step -/

/-- What follows a byte, written out (R264). -/
theorem afterByte_eq_ite (k : DeliveryKind) (n : Nat) (bs : List Byte) (t : State) : afterByte k n bs t =
    if t.state = .error ∨ bs = [] then
      { t with delivery := none, returned := if k = .feedn then .count n else t.returned }
    else { t with delivery := some { kind := k, rest := bs, consumed := n } } := by
  unfold afterByte
  cases k <;> rfl

/-- Settles O45: the head of the script decoded and run, or one more pass of the composite. -/
theorem stepRunsTheDecodedInstruction : Obligations.StepRunsTheDecodedInstruction := by
  refine ⟨fun s item rest i hd hs hi => step_of_item hd hs hi, fun s k b bs n hd => ?_⟩
  have hstep : step s = withLegalConfig s (deliver k n (b :: bs) s) := step_of_delivery hd
  rw [hstep, exec, execFeed]
  cases hl : configLegal s.cfg with
  | false => rw [withLegalConfig_of_illegal hl, withLegalConfig_of_illegal hl, andThen_refused]
  | true =>
    rw [withLegalConfig_of_legal hl, withLegalConfig_of_legal hl, deliver]
    simp only [afterByte_eq_ite]

/-- `j` steps of the machine, stopping at the first fault or refusal. -/
def runSteps (j : Nat) (s : State) : Result := Host.Core.run Sys2Proof.core j s

section Runs

variable {s t : State}

theorem run_succ_next (j : Nat) (h : step s = .next t) :
    runSteps (j + 1) s = runSteps j t := by
  have hcore : Sys2Proof.core.step s = .next t := h
  simp only [runSteps, Host.Core.run, hcore]
  rfl

theorem run_succ_fault (j : Nat) {f : Fault} (h : step s = .fault f) :
    runSteps (j + 1) s = .fault f := by
  have hcore : Sys2Proof.core.step s = .fault f := h
  simp only [runSteps, Host.Core.run, hcore]
  rfl

theorem run_succ_refused (j : Nat) {r : Refusal} (h : step s = .refused r) :
    runSteps (j + 1) s = .refused r := by
  have hcore : Sys2Proof.core.step s = .refused r := h
  simp only [runSteps, Host.Core.run, hcore]
  rfl

end Runs

/-- Where a FEEDN that consumed `n` bytes before `bs` stands after `j` bytes of it, `v` being where the FEED commands
stand. -/
def feednAt (rest : List FetchItem) (bs : List Byte) (n j : Nat) (v : State) : State :=
  { v with
    script := rest
    delivery := if v.state = .error ∨ j = bs.length then none
      else some { kind := .feedn, rest := bs.drop j, consumed := n + j }
    returned := if v.state = .error ∨ j = bs.length then .count (n + j) else v.returned }

theorem feednAt_cons (rest : List FetchItem) (b : Byte) (bs : List Byte) (n j : Nat) (v : State) :
    feednAt rest (b :: bs) n (j + 1) v = feednAt rest bs (n + 1) j v := by
  simp [feednAt, Nat.add_assoc, Nat.add_comm 1 j]

/-- The same block before another script (log entry 5). -/
def withScript (c : List FetchItem) (s : State) : State := { s with script := c }

/-- After one byte. -/
theorem afterByte_feedn (b : Byte) (bs : List Byte) (n : Nat) (t : State) (c : List FetchItem) :
    afterByte .feedn (n + 1) bs t = feednAt t.script (b :: bs) n 1 (withScript c t) := by
  rw [afterByte_eq_ite]
  have hlen : 1 = (b :: bs).length ↔ bs = [] := by
    cases bs <;> simp
  simp only [feednAt, withScript, hlen]
  split <;> rfl

section Lockstep

variable {s t : State} {b : Byte} {bs : List Byte} {items rest : List FetchItem}

/-- A FEED command at the head of the script feeds the block, whatever else the host will present. -/
theorem step_feed_item (hd : s.delivery = none) (hs : s.script = .port 1 b :: items) :
    step s = withLegalConfig s (andThen (feedByte b (withScript rest s)) fun t => .next (withScript items t)) := by
  have hstep : step s = withLegalConfig s (feedByte b (withScript items s)) := step_of_item hd hs rfl
  have hfeed := feedByte_withBoundary b items s.delivery s.returned (withScript rest s)
  rw [hstep, show withScript items s = withBoundary items s.delivery s.returned (withScript rest s) from rfl, hfeed]
  cases hf : feedByte b (withScript rest s) with
  | fault f => rfl
  | refused r => rfl
  | next t =>
    obtain ⟨-, -, hdelivery, hreturned⟩ := feedByte_keeps hf
    rw [andThen_next, andThen_next, withBoundary, show s.delivery = t.delivery from hdelivery.symm,
      show s.returned = t.returned from hreturned.symm, withScript]

/-- The pass after a byte that did not end the FEEDN, put on the block as the FEED commands leave it. -/
theorem step_afterByte_feedn (n : Nat) (hl : configLegal t.cfg = true) (he : t.state ≠ .error) (hbs : bs ≠ []) :
    step (afterByte .feedn n bs t) =
      withLegalConfig (withScript items t) (deliver .feedn n bs (withScript t.script (withScript items t))) :=
  (step_afterByte hl he hbs).2.trans (withLegalConfig_of_legal (s := withScript items t) hl).symm

end Lockstep

/-- The two runs in lockstep. `s` stands before the FEED commands of `bs`, and the next step of `s'` is the first pass
of a FEEDN of `bs` on the same block. -/
theorem lockstep (rest : List FetchItem) : ∀ (bs : List Byte) (n j : Nat) (s s' : State), s.delivery = none →
    s.script = bs.map (FetchItem.port 1) ++ rest → 0 < j → j ≤ bs.length →
    step s' = withLegalConfig s (deliver .feedn n bs (withScript rest s)) →
    (∀ i w, 0 < i → i < j → runSteps i s = .next w → w.state ≠ .error) →
    (∀ f, runSteps j s = .fault f → runSteps j s' = .fault f) ∧
    ∀ v, runSteps j s = .next v →
      runSteps j s' = .next (feednAt rest bs n j v) := by
  intro bs
  induction bs with
  | nil => exact fun _ _ _ _ _ _ h0 hle => absurd (Nat.lt_of_lt_of_le h0 hle) (Nat.lt_irrefl 0)
  | cons b bs ih =>
    intro n j s s' hd hs h0 hle hs' hok
    obtain ⟨i, rfl⟩ : ∃ i, j = i + 1 := ⟨j - 1, by omega⟩
    have hstep := step_feed_item (rest := rest) (items := bs.map (FetchItem.port 1) ++ rest) hd hs
    cases hl : configLegal s.cfg with
    | false =>
      rw [withLegalConfig_of_illegal hl] at hstep
      rw [run_succ_refused i hstep]
      exact ⟨fun _ => nofun, fun _ => nofun⟩
    | true =>
      rw [withLegalConfig_of_legal hl] at hstep hs'
      rw [deliver] at hs'
      cases hf : feedByte b (withScript rest s) with
      | refused r => exact absurd hf (feedByte_ne_refused b _ r)
      | fault f =>
        rw [hf, andThen_fault] at hstep hs'
        rw [run_succ_fault i hstep, run_succ_fault i hs']
        exact ⟨fun _ h => h, fun _ => nofun⟩
      | next t =>
        obtain ⟨hcfg, hscript, hdelivery, -⟩ := feedByte_keeps hf
        rw [hf, andThen_next] at hstep hs'
        rw [run_succ_next i hstep, run_succ_next i hs']
        cases i with
        | zero =>
          refine ⟨fun _ => nofun, fun v hv => ?_⟩
          cases hv
          exact congrArg _ ((afterByte_feedn b bs n t _).trans (by rw [hscript]; rfl))
        | succ i =>
          have he : t.state ≠ .error :=
            hok 1 (withScript (bs.map (FetchItem.port 1) ++ rest) t) Nat.one_pos (by omega)
              (run_succ_next 0 hstep)
          have hbs : bs ≠ [] := List.ne_nil_of_length_pos (by simp at hle; omega)
          have hnext := step_afterByte_feedn (items := bs.map (FetchItem.port 1) ++ rest) (n + 1)
            (hcfg.symm ▸ hl) he hbs
          rw [hscript] at hnext
          have hmain := ih (n + 1) (i + 1) (withScript (bs.map (FetchItem.port 1) ++ rest) t) _
            (hdelivery.trans hd) rfl (Nat.succ_pos i) (Nat.le_of_succ_le_succ hle) hnext fun k w hk hki hw =>
              hok (k + 1) w (Nat.succ_pos k) (by omega) ((run_succ_next k hstep).trans hw)
          exact ⟨hmain.1, fun v hv => (hmain.2 v hv).trans (congrArg _ (feednAt_cons rest b bs n (i + 1) v).symm)⟩

/-- Settles O35: the first step of the FEEDN is the first pass on the block the FEEDs start from. -/
theorem feednIsTheSteppedFeeds : Obligations.FeednIsTheSteppedFeeds := by
  intro bs rest s j hd hs h0 hle hok
  have hstep : step { s with script := .bulk bs :: rest } =
      withLegalConfig s (deliver .feedn 0 bs (withScript rest s)) :=
    step_of_item (s := { s with script := .bulk bs :: rest }) hd rfl rfl
  have hmain := lockstep rest bs 0 j s _ hd hs h0 hle hstep hok
  simp only [feednAt, Nat.zero_add] at hmain
  exact hmain

end Sys2Proof.Machine
end

section
/-! Frames, byte by byte: what the engine has parsed after each part of a frame (44_frames_response.md,
45_frames_request.md). -/

namespace Sys2Proof.Machine

/-! ## Feeding a part of a frame -/

/-- Feeding all of `bs` leads from `s` to `t`, no byte before the last ending in `Error`. -/
def FeedsTo (bs : List Byte) (s t : State) : Prop := feedBytes bs s = .next (t, bs.length)

theorem FeedsTo.single {b : Byte} {s t : State} (h : feedByte b s = .next t) : FeedsTo [b] s t := by
  by_cases ht : t.state = .error
  · exact feedBytes_cons_error h ht
  · rw [FeedsTo, feedBytes_cons_eq_mapRun h ht]
    rfl

theorem FeedsTo.append {bs cs : List Byte} {s t u : State} (h : FeedsTo bs s t) (ht : t.state ≠ .error)
    (h' : FeedsTo cs t u) : FeedsTo (bs ++ cs) s u := by
  have happ := (feedBytes_append (cs := cs) h ht).2
  rw [h'] at happ
  rw [FeedsTo, happ, List.length_append, Nat.add_comm]
  rfl

theorem FeedsTo.cons {b : Byte} {bs : List Byte} {s t u : State} (h : feedByte b s = .next t) (ht : t.state ≠ .error)
    (h' : FeedsTo bs t u) : FeedsTo (b :: bs) s u :=
  (FeedsTo.single h).append ht h'

/-- What follows a byte that ended in `Error` is not fed (R264). -/
theorem feedBytes_append_of_error {bs : List Byte} : ∀ {s u : State} {n : Nat}, bs ≠ [] →
    feedBytes bs s = .next (u, n) → u.state = .error → ∀ more, feedBytes (bs ++ more) s = .next (u, n) := by
  induction bs with
  | nil => exact fun hne => absurd rfl hne
  | cons b bs ih =>
    intro s u n _ h he more
    cases hb : feedByte b s with
    | fault f => simp [feedBytes, hb] at h
    | refused r => exact absurd hb (feedByte_ne_refused b s r)
    | next t =>
      by_cases ht : t.state = .error
      · rw [feedBytes_cons_error hb ht] at h
        rw [List.cons_append, feedBytes_cons_error hb ht, h]
      · rw [feedBytes_cons_eq_mapRun hb ht] at h
        rw [List.cons_append, feedBytes_cons_eq_mapRun hb ht]
        cases hr : feedBytes bs t with
        | fault f => rw [hr] at h; cases h
        | refused r => rw [hr] at h; cases h
        | next p =>
          rw [hr] at h
          cases h
          have hbs : bs ≠ [] := by
            rintro rfl
            cases hr
            exact ht he
          rw [ih hbs hr he more]
          rfl

/-- A frame kind of which the bytes `bs` are fed, the rest being empty or cut off by an error: one step for each. -/
theorem FeedsTo.finishes {bs more : List Byte} {s u : State} {i : Instr} {k : Nat} (h : FeedsTo bs s u)
    (hk : bs.length = k + 1) (hend : u.state = .error ∨ more = []) (hl : configLegal s.cfg = true)
    (hexec : exec i s = withLegalConfig s (deliverFrame (bs ++ more) s)) :
    ∃ t, exec i s = .next t ∧ FinishesIn k t { u with delivery := none } := by
  have hbs : bs ≠ [] := List.ne_nil_of_length_pos (by omega)
  have hrun : feedBytes (bs ++ more) s = .next (u, k + 1) := by
    rw [← hk]
    rcases hend with he | rfl
    · exact feedBytes_append_of_error hbs h he more
    · rwa [List.append_nil]
  obtain ⟨j, t, hj, ht, hfin⟩ := deliver_finishes (k := .frame) (n := 0) hl (by simp [hbs]) hrun
  rw [withLegalConfig_of_legal hl] at hexec
  rw [show k = j by omega]
  exact ⟨t, hexec.trans ht, hfin⟩

/-! ## Address and function code -/

/-- After the address byte: the block reset but for it (R197). -/
def addressed (s : State) (addr : Byte) : State :=
  { resetBlock s with slaveAddress := addr, crc := crcOfBytes [addr], state := .functionCode }

/-- Where a frame starts, an accepted address is recorded in the reset state (R196, R197). -/
theorem feedByte_addr {s : State} {role : Role} {addr : Byte} (h : TakesFrame s role addr) :
    feedByte addr s = .next (addressed s addr) := by
  have haddr : onSlaveAddress addr (resetBlock s) = addressed s addr :=
    if_pos ((acceptsAddress_iff s.cfg addr).mpr h.accepted)
  rcases h.start with hs | hs | hs
  · have hstate : s.state = .slaveAddress := congrArg State.state hs
    have hfeed : feedByte addr s = .next (onSlaveAddress addr s) := by simp only [feedByte, hstate]
    rw [hfeed, ← haddr, ← hs]
  · simp only [feedByte, hs, haddr]
  · simp only [feedByte, hs, haddr]

/-- After a supported function code: at the first phase of its table (R198). -/
def opened (s : State) (addr fc : Byte) (tag : ParserState) : State :=
  { resetBlock s with slaveAddress := addr, functionCode := fc, crc := crcOfBytes [addr, fc], state := tag }

theorem feedsTo_opened {s : State} {role : Role} {addr fc : Byte} {t : List ParserState} {tag : ParserState}
    (h : TakesFrame s role addr) (ht : phaseTable role fc = some t) (htag : t[0]? = some tag) :
    FeedsTo [addr, fc] s (opened s addr fc tag) := by
  have hsup : fc ∈ supportedCodes := (supportedCodes_contains fc).mp (supported_of_phaseTable ht)
  have htag' : stateAtPhase s.cfg.role fc 0 = tag := stateAtPhase_of_tag (by rw [h.role]; exact ht) htag
  have hfc : onFunctionCode fc (addressed s addr) = opened s addr fc tag := by
    rw [onFunctionCode_of_supported _ hsup, show (addressed s addr).cfg = s.cfg from rfl, htag']
    rfl
  exact .cons (feedByte_addr h) (by simp [addressed]) (.single (congrArg Host.Outcome.next hfc))

/-! ## The fixed fields -/

section Fields

variable {u : State} {t : List ParserState} (ht : phaseTable u.cfg.role u.functionCode = some t)
include ht

/-- A byte of the address field, `a` being the field after it (R199). -/
theorem onAddress_inside (hp : u.phaseIdx < t.length) {first : Bool} (hf : isFirstByte u.phaseIdx = first) {b : Byte}
    {a : Word} (ha : writeHalf u.cfg.endianness first u.address b = a) :
    onAddress b u = { u with
      address := a
      crc := crcFoldByte u.crc b
      phaseIdx := u.phaseIdx + 1
      state := (t[u.phaseIdx + 1]?).getD .firstCRC } := by
  subst hf ha
  rw [onAddress, advancePhase_eq (s := foldCrc b { u with address := _ }) ht hp]
  rfl

/-- The two address bytes spell the address, and the third phase follows. -/
theorem feedsTo_address (hs : u.state = .address) (hp : u.phaseIdx = 0) (h1 : t[1]? = some .address) (v : Word) :
    FeedsTo [fieldFirst u.cfg.endianness v, fieldSecond u.cfg.endianness v] u { u with
      address := v
      crc := [fieldFirst u.cfg.endianness v, fieldSecond u.cfg.endianness v].foldl crcFoldByte u.crc
      phaseIdx := 2
      state := (t[2]?).getD .firstCRC } := by
  have hlt := (List.getElem?_eq_some_iff.mp h1).1
  have hboth := writeHalf_both u.cfg.endianness u.address (fieldFirst u.cfg.endianness v)
    (fieldSecond u.cfg.endianness v)
  rw [fieldOf_wire] at hboth
  have hfirst := onAddress_inside (b := fieldFirst u.cfg.endianness v) ht (show u.phaseIdx < t.length by omega)
    (show isFirstByte u.phaseIdx = true by rw [hp]; rfl) rfl
  rw [hp, h1] at hfirst
  refine .cons (t := onAddress (fieldFirst u.cfg.endianness v) u) (by simp only [feedByte, hs]) (by simp [hfirst])
    (.single ?_)
  rw [hfirst]
  exact congrArg Host.Outcome.next (onAddress_inside (u := { u with
    address := writeHalf u.cfg.endianness true u.address (fieldFirst u.cfg.endianness v)
    crc := crcFoldByte u.crc (fieldFirst u.cfg.endianness v), phaseIdx := 1, state := .address }) ht hlt
    (show isFirstByte 1 = false from rfl) hboth)

/-- A byte of the quantity field, `q` being the field after it: the zero test on the second byte only (R200, D11). -/
theorem onQuantity_inside (hp : u.phaseIdx < t.length) {first : Bool} (hf : isFirstByte u.phaseIdx = first)
    {b : Byte} {q : Word} (hq : writeHalf u.cfg.endianness first u.quantity b = q) :
    onQuantity b u =
      if first = false ∧ q = 0 then
        raiseError illegalDataValue { u with quantity := q, crc := crcFoldByte u.crc b }
      else { u with
        quantity := q
        crc := crcFoldByte u.crc b
        phaseIdx := u.phaseIdx + 1
        state := (t[u.phaseIdx + 1]?).getD .firstCRC } := by
  subst hf hq
  rw [onQuantity_eq, advancePhase_eq (s := quantityWritten b u) ht hp]
  exact if_congr (by simp [quantityWritten]) rfl rfl

/-- The two quantity bytes spell the quantity; then the fifth phase follows, or the error of a zero quantity. -/
theorem feedsTo_quantity (hs : u.state = .quantity) (hp : u.phaseIdx = 2) (h3 : t[3]? = some .quantity) (v : Word) :
    FeedsTo [fieldFirst u.cfg.endianness v, fieldSecond u.cfg.endianness v] u
      (if v = 0 then raiseError illegalDataValue { u with
        quantity := v
        crc := [fieldFirst u.cfg.endianness v, fieldSecond u.cfg.endianness v].foldl crcFoldByte u.crc
        phaseIdx := 3 }
      else { u with
        quantity := v
        crc := [fieldFirst u.cfg.endianness v, fieldSecond u.cfg.endianness v].foldl crcFoldByte u.crc
        phaseIdx := 4
        state := (t[4]?).getD .firstCRC }) := by
  have hlt := (List.getElem?_eq_some_iff.mp h3).1
  have hboth := writeHalf_both u.cfg.endianness u.quantity (fieldFirst u.cfg.endianness v)
    (fieldSecond u.cfg.endianness v)
  rw [fieldOf_wire] at hboth
  have hfirst := onQuantity_inside (b := fieldFirst u.cfg.endianness v) ht (show u.phaseIdx < t.length by omega)
    (show isFirstByte u.phaseIdx = true by rw [hp]; rfl) rfl
  rw [hp, h3] at hfirst
  have hsecond := onQuantity_inside (b := fieldSecond u.cfg.endianness v) (q := v) (u := { u with
    quantity := writeHalf u.cfg.endianness true u.quantity (fieldFirst u.cfg.endianness v)
    crc := crcFoldByte u.crc (fieldFirst u.cfg.endianness v), phaseIdx := 3, state := .quantity }) ht hlt
    (show isFirstByte 3 = false from rfl) hboth
  refine .cons (t := onQuantity (fieldFirst u.cfg.endianness v) u) (by simp only [feedByte, hs]) ?_ (.single ?_)
  · simp [hfirst]
  · rw [hfirst]
    exact congrArg Host.Outcome.next (hsecond.trans (if_congr (and_iff_right rfl) rfl rfl))

end Fields

/-! ## The payload -/

/-- The whole payload `data` taken in `u`, the buffer's registers and contents given apart. -/
def payloadTaken (u : State) (data : List Byte) (w r : Nat) (m : Memory) : State :=
  { u with
    crc := data.foldl crcFoldByte u.crc
    phaseIdx := u.phaseIdx + 1
    state := .firstCRC
    dataToReceive := 0
    wptr := w
    rcnt := r
    buf := m }

/-- The missing bytes of an allocated payload, fed one after another (R202). -/
theorem feedsTo_payload {rest : List Byte} : ∀ {u : State} {vs : List Byte} {t : List ParserState},
    configLegal u.cfg = true → u.state = .data → phaseTable u.cfg.role u.functionCode = some t →
    u.phaseIdx + 1 = t.length → Receiving u vs → rest ≠ [] → rest.length = u.dataToReceive →
    PayloadFits u.cfg u.dataLen →
    ∃ w r m, FeedsTo rest u (payloadTaken u rest w r m) ∧
      PayloadStored (payloadTaken u rest w r m) (vs ++ rest) := by
  induction rest with
  | nil => exact fun _ _ _ _ _ hne => absurd rfl hne
  | cons b rest ih =>
    intro u vs t hl hs ht hlast hrec _ hlen hfit
    have hremaining := hrec.remaining
    have h0 : 0 < u.dataToReceive := by rw [← hlen]; simp
    have hin : u.wptr < u.dataLen := by
      rw [hrec.stored.cursor]
      exact payloadIndex_lt hl hfit (by omega)
    have hfeed : feedByte b u = .next (finishData b (storeByte b u)) := by
      have hdata := onData_of_inside b (s := u) (by rwa [enterData_of_allocated hrec.allocated])
      rw [enterData_of_allocated hrec.allocated] at hdata
      exact (feedByte_of_data hs).trans hdata
    have hnext := hrec.receiveByte hl h0 hin b
    by_cases hrest : rest = []
    · subst hrest
      have hone : u.dataToReceive = 1 := hlen.symm
      rw [finishData_storeByte_last b hone, advancePhase_last (by simpa using ht) (by simpa using hlast),
        receiveByte_frame, hone] at hfeed
      refine ⟨(storeByte b u).wptr, (storeByte b u).rcnt, (storeByte b u).buf, .single hfeed, ?_⟩
      exact hnext.stored.congr (receiveByte_cfg b u).symm (by rw [receiveByte_frame]; rfl)
    · have hmore : 1 < u.dataToReceive := by
        have := List.length_pos_of_ne_nil hrest
        rw [← hlen, List.length_cons]
        omega
      rw [finishData_storeByte_more b hmore] at hfeed
      obtain ⟨w, r, m, hto, hstored⟩ := ih (u := receiveByte b u) (by simpa using hl) (by simpa using hs)
        (by simpa using ht) (by simpa using hlast) hnext hrest (by simp [← hlen]) (by simpa using hfit)
      have hsame : payloadTaken (receiveByte b u) rest w r m = payloadTaken u (b :: rest) w r m := by
        rw [receiveByte_frame]
        rfl
      rw [hsame] at hto hstored
      exact ⟨w, r, m, .cons hfeed (by simp [hs]) hto, by simpa using hstored⟩

/-- The payload buffer allocated for `n` bytes, taken whole. -/
def payloadFed (u : State) (data : List Byte) (w r : Nat) (m : Memory) : State :=
  payloadTaken { u with bufAlloc := true, dataLen := data.length } data w r m

/-- Bytes stored one after another in an allocation of their number are a whole payload. -/
theorem PayloadStored.holdsPayload {s : State} {data : List Byte} (h : PayloadStored s data)
    (ha : s.bufAlloc = true) (hlen : s.dataLen = data.length) : HoldsPayload s data where
  allocated := ha
  size := hlen
  canonical := h.canonical
  bytes := h.bytes
  nothingElse i hi := h.nothingElse i fun j hj heq => by
    have := h.inside j hj
    omega

/-- The whole payload of a frame, its count received or implicit (R190, R202). -/
theorem feedsTo_data {u : State} {t : List ParserState} {data : List Byte} (hl : configLegal u.cfg = true)
    (hs : u.state = .data) (ht : phaseTable u.cfg.role u.functionCode = some t) (hlast : u.phaseIdx + 1 = t.length)
    (hfree : BufferFree u) (hdtr : u.dataToReceive = u.byteCount.toNat)
    (hlen : data.length = if u.dataToReceive = 0 then 2 else u.dataToReceive) (hfit : PayloadFits u.cfg data.length) :
    ∃ w r m, FeedsTo data u (payloadFed u data w r m) ∧ HoldsPayload (payloadFed u data w r m) data := by
  obtain ⟨hrec, h0⟩ := receiving_enterData hl hfree hdtr
  have halloc : enterData u = allocBuffer data.length { u with dataToReceive := data.length } := by
    rw [enterData, hfree.1, hlen]
    rfl
  have hne : data ≠ [] := by
    rintro rfl
    rw [halloc] at h0
    exact absurd h0 (Nat.lt_irrefl 0)
  obtain ⟨w, r, m, hto, hstored⟩ := feedsTo_payload (rest := data) (u := enterData u) (by simpa using hl)
    (by simpa using hs) (by simpa using ht) (by simpa using hlast) hrec hne (by rw [halloc]; rfl)
    (by rw [halloc]; exact hfit)
  have hsame : payloadTaken (enterData u) data w r m = payloadFed u data w r m := by
    rw [halloc]
    rfl
  have hfirst : feedBytes data (enterData u) = feedBytes data u := by
    obtain ⟨b, data, rfl⟩ := List.exists_cons_of_ne_nil hne
    have hbyte : feedByte b (enterData u) = feedByte b u := by
      rw [feedByte_of_data (by simpa using hs), feedByte_of_data hs, onData, onData,
        enterData_of_allocated hrec.allocated]
    simp only [feedBytes, hbyte]
  rw [hsame] at hto hstored
  exact ⟨w, r, m, hfirst.symm.trans hto, hstored.holdsPayload rfl rfl⟩

end Sys2Proof.Machine
end

section
/-! Whole frames: the body up to the CRC by format (R101 to R104), the two CRC bytes, and the errors that end a frame
early. -/

namespace Sys2Proof.Machine

/-! ## The fixed part of a frame -/

section Prefix

variable {s : State} {role : Role} {addr fc : Byte} {rest : List ParserState} (h : TakesFrame s role addr)

/-- After the address field: at the third phase. -/
def located (s : State) (addr fc : Byte) (v : Word) (tag : ParserState) : State :=
  { resetBlock s with
    slaveAddress := addr
    functionCode := fc
    address := v
    crc := crcOfBytes [addr, fc, fieldFirst s.cfg.endianness v, fieldSecond s.cfg.endianness v]
    phaseIdx := 2
    state := tag }

/-- After the quantity field: at the fifth phase. -/
def measured (s : State) (addr fc : Byte) (v q : Word) (tag : ParserState) : State :=
  { located s addr fc v tag with
    quantity := q
    crc := crcOfBytes [addr, fc, fieldFirst s.cfg.endianness v, fieldSecond s.cfg.endianness v,
      fieldFirst s.cfg.endianness q, fieldSecond s.cfg.endianness q]
    phaseIdx := 4 }

/-- After an accepted byte count: at the payload (R201). -/
def counted (u : State) (bc : Byte) : State :=
  { u with
    byteCount := bc
    dataToReceive := bc.toNat
    crc := crcFoldByte u.crc bc
    phaseIdx := u.phaseIdx + 1
    state := .data }

include h

theorem feedsTo_located (ht : phaseTable role fc = some (.address :: .address :: rest)) (v : Word) :
    FeedsTo [addr, fc, fieldFirst s.cfg.endianness v, fieldSecond s.cfg.endianness v] s
      (located s addr fc v (rest[(0 : Nat)]?.getD .firstCRC)) :=
  (feedsTo_opened h ht rfl).append (by simp [opened])
    (feedsTo_address (t := .address :: .address :: rest) (u := opened s addr fc .address) (h.role ▸ ht) rfl rfl rfl v)

theorem feedsTo_quantityField
    (ht : phaseTable role fc = some (.address :: .address :: .quantity :: .quantity :: rest)) (v q : Word) :
    FeedsTo [addr, fc, fieldFirst s.cfg.endianness v, fieldSecond s.cfg.endianness v, fieldFirst s.cfg.endianness q,
      fieldSecond s.cfg.endianness q] s
      (if q = 0 then raiseError illegalDataValue { measured s addr fc v q .quantity with phaseIdx := 3 }
      else measured s addr fc v q (rest[(0 : Nat)]?.getD .firstCRC)) :=
  (feedsTo_located h ht v).append (by simp [located])
    (feedsTo_quantity (t := .address :: .address :: .quantity :: .quantity :: rest)
      (u := located s addr fc v .quantity) (h.role ▸ ht) rfl rfl rfl q)

theorem feedsTo_measured
    (ht : phaseTable role fc = some (.address :: .address :: .quantity :: .quantity :: rest)) (v : Word) {q : Word}
    (hq : q ≠ 0) :
    FeedsTo [addr, fc, fieldFirst s.cfg.endianness v, fieldSecond s.cfg.endianness v, fieldFirst s.cfg.endianness q,
      fieldSecond s.cfg.endianness q] s (measured s addr fc v q (rest[(0 : Nat)]?.getD .firstCRC)) := by
  have hfield := feedsTo_quantityField h ht v q
  rwa [if_neg hq] at hfield

end Prefix

/-- An accepted byte count leads to the payload. -/
theorem feedsTo_counted {u : State} {t : List ParserState} {bc : Byte}
    (ht : phaseTable u.cfg.role u.functionCode = some t) (hs : u.state = .byteCount)
    (hp : t[u.phaseIdx]? = some .byteCount) (h0 : bc ≠ 0) (hle : bc.toNat ≤ u.cfg.byteCountLimit) :
    FeedsTo [bc] u (counted u bc) := by
  have hfeed : feedByte bc u = .next (onByteCount bc u) := by simp only [feedByte, hs]
  rw [onByteCount_of_valid h0 hle,
    advancePhase_of_byteCount (s := foldCrc bc { u with byteCount := bc, dataToReceive := bc.toNat }) ht hp] at hfeed
  exact .single hfeed

/-- A refused one ends the frame (R201). -/
theorem feedsTo_badCount {u : State} {bc : Byte} (hs : u.state = .byteCount)
    (hbad : bc = 0 ∨ u.cfg.byteCountLimit < bc.toNat) : FeedsTo [bc] u (raiseError illegalDataValue u) := by
  have hfeed : feedByte bc u = .next (onByteCount bc u) := by simp only [feedByte, hs]
  rw [onByteCount_of_invalid hbad] at hfeed
  exact .single hfeed

/-! ## The body of a frame, by format -/

/-- A whole payload is a matter of the buffer and the configuration alone. -/
theorem HoldsPayload.congr {s t : State} {data : List Byte} (h : HoldsPayload s data) (hcfg : t.cfg = s.cfg)
    (hbuf : bufferOf t = bufferOf s) : HoldsPayload t data := by
  simp only [bufferOf, Prod.mk.injEq] at hbuf
  obtain ⟨halloc, hlen, -, -, hm⟩ := hbuf
  refine ⟨halloc.trans h.allocated, hlen.trans h.size, by rw [hm, h.canonical], ?_, ?_⟩
  · rw [hcfg, hm]
    exact h.bytes
  · rw [hm]
    exact h.nothingElse

theorem BufferFree.congr {s t : State} (h : BufferFree s) (hbuf : bufferOf t = bufferOf s) : BufferFree t := by
  simp only [bufferOf, Prod.mk.injEq] at hbuf
  obtain ⟨halloc, hlen, hw, hr, hm⟩ := hbuf
  obtain ⟨h1, h2, h3, h4, h5⟩ := h
  exact ⟨halloc.trans h1, hlen.trans h2, hw.trans h3, hr.trans h4, hm.trans h5⟩

/-- The body of a frame was fed and parsed: `w` waits for the first CRC byte with the frame's fields recorded, and its
buffer is as `P` says, of whatever state has that buffer. -/
structure BodyFed (s w : State) (body : List Byte) (addr fc : Byte) (address quantity : Word) (bc : Byte)
    (phases : Nat) (P : State → Prop) : Prop where
  feeds : FeedsTo body s w
  state : w.state = .firstCRC
  error : w.error = 0
  events : w.events = s.events
  fields : FrameFields s { w with delivery := none } addr fc address quantity bc (crcOfBytes body) phases
  payload : ∀ u, u.cfg = w.cfg → bufferOf u = bufferOf w → P u

section Bodies

variable {s : State} {role : Role} {addr fc : Byte} (h : TakesFrame s role addr)
include h

theorem bodyFed_BC {bc : Byte} {data : List Byte} (ht : phaseTable role fc = some [.byteCount, .data])
    (hlen : data.length = bc.toNat) (h0 : bc ≠ 0) (hle : bc.toNat ≤ s.cfg.byteCountLimit)
    (hfit : PayloadFits s.cfg bc.toNat) :
    ∃ w, BodyFed s w (addr :: fc :: bc :: data) addr fc 0 0 bc 2 (HoldsPayload · data) := by
  have hcounted : FeedsTo [addr, fc, bc] s (counted (opened s addr fc .byteCount) bc) :=
    (feedsTo_opened h ht rfl).append (by simp [opened])
      (feedsTo_counted (u := opened s addr fc .byteCount) (h.role ▸ ht) rfl rfl h0 hle)
  have hne : bc.toNat ≠ 0 := fun hz => h0 (BitVec.eq_of_toNat_eq hz)
  obtain ⟨w, r, m, hdata, hholds⟩ := feedsTo_data (u := counted (opened s addr fc .byteCount) bc) h.legal rfl
    (h.role ▸ ht) rfl ⟨rfl, rfl, rfl, rfl, rfl⟩ rfl (hlen.trans (if_neg hne).symm) (hlen.symm ▸ hfit)
  exact ⟨_, hcounted.append (by simp [counted]) hdata, rfl, rfl, rfl,
    ⟨rfl, rfl, rfl, rfl, rfl, rfl, rfl, rfl, rfl, rfl, rfl, rfl⟩, fun _ hcfg hbuf => hholds.congr hcfg hbuf⟩

theorem bodyFed_AV {v1 v2 : Byte} (ht : phaseTable role fc = some [.address, .address, .data]) (reg : Word)
    (hfit : PayloadFits s.cfg 2) :
    ∃ w, BodyFed s w [addr, fc, fieldFirst s.cfg.endianness reg, fieldSecond s.cfg.endianness reg, v1, v2]
      addr fc reg 0 0 3 (HoldsPayload · [v1, v2]) := by
  have hlocated := feedsTo_located h ht reg
  obtain ⟨w, r, m, hdata, hholds⟩ := feedsTo_data (u := located s addr fc reg .data) (data := [v1, v2]) h.legal rfl
    (h.role ▸ ht) rfl ⟨rfl, rfl, rfl, rfl, rfl⟩ rfl rfl hfit
  exact ⟨_, hlocated.append (by simp [located]) hdata, rfl, rfl, rfl,
    ⟨rfl, rfl, rfl, rfl, rfl, rfl, rfl, rfl, rfl, rfl, rfl, rfl⟩, fun _ hcfg hbuf => hholds.congr hcfg hbuf⟩

theorem bodyFed_AQ (ht : phaseTable role fc = some [.address, .address, .quantity, .quantity]) (start : Word)
    {qty : Word} (hq : qty ≠ 0) :
    ∃ w, BodyFed s w [addr, fc, fieldFirst s.cfg.endianness start, fieldSecond s.cfg.endianness start,
      fieldFirst s.cfg.endianness qty, fieldSecond s.cfg.endianness qty] addr fc start qty 0 4 BufferFree :=
  ⟨_, feedsTo_measured h ht start hq, rfl, rfl, rfl,
    ⟨rfl, rfl, rfl, rfl, rfl, rfl, rfl, rfl, rfl, rfl, rfl, rfl⟩,
    fun _ _ hbuf => BufferFree.congr ⟨rfl, rfl, rfl, rfl, rfl⟩ hbuf⟩

theorem bodyFed_AQBD {bc : Byte} {data : List Byte}
    (ht : phaseTable role fc = some [.address, .address, .quantity, .quantity, .byteCount, .data]) (start : Word)
    {qty : Word} (hq : qty ≠ 0) (hlen : data.length = bc.toNat) (h0 : bc ≠ 0)
    (hle : bc.toNat ≤ s.cfg.byteCountLimit) (hfit : PayloadFits s.cfg bc.toNat) :
    ∃ w, BodyFed s w (addr :: fc :: fieldFirst s.cfg.endianness start :: fieldSecond s.cfg.endianness start ::
      fieldFirst s.cfg.endianness qty :: fieldSecond s.cfg.endianness qty :: bc :: data) addr fc start qty bc 6
      (HoldsPayload · data) := by
  have hcounted := (feedsTo_measured h ht start hq).append (by simp [measured, located])
    (feedsTo_counted (u := measured s addr fc start qty .byteCount) (h.role ▸ ht) rfl rfl h0 hle)
  have hne : bc.toNat ≠ 0 := fun hz => h0 (BitVec.eq_of_toNat_eq hz)
  obtain ⟨w, r, m, hdata, hholds⟩ := feedsTo_data (u := counted (measured s addr fc start qty .byteCount) bc)
    h.legal rfl (h.role ▸ ht) rfl ⟨rfl, rfl, rfl, rfl, rfl⟩ rfl (hlen.trans (if_neg hne).symm) (hlen.symm ▸ hfit)
  exact ⟨_, hcounted.append (by simp [counted]) hdata, rfl, rfl, rfl,
    ⟨rfl, rfl, rfl, rfl, rfl, rfl, rfl, rfl, rfl, rfl, rfl, rfl⟩, fun _ hcfg hbuf => hholds.congr hcfg hbuf⟩

end Bodies

/-! ## The two CRC bytes -/

section Crc

variable {w : State} (hs : w.state = .firstCRC)
include hs

theorem feedByte_firstCRC (b : Byte) : feedByte b w = .next (onFirstCRC b w) := by simp only [feedByte, hs]

/-- The block's own CRC completes the frame (R204, R205). -/
theorem feedsTo_goodCrc (hd : w.dataToReceive = 0) :
    FeedsTo [crcFirst w.cfg.endianness w.crc, crcSecond w.cfg.endianness w.crc] w (completeFrame w) := by
  have hfirst := feedByte_firstCRC hs (crcFirst w.cfg.endianness w.crc)
  rw [onFirstCRC, if_pos rfl] at hfirst
  refine .cons hfirst nofun (.single (congrArg Host.Outcome.next ?_))
  rw [onSecondCRC, if_pos rfl, if_pos hd]
  rfl

/-- Any other one ends it on its first wrong byte: the first, or, that one being right, the second. -/
theorem feedsTo_badCrc {c : Word} (hc : c ≠ w.crc) :
    ∃ bs more, [crcFirst w.cfg.endianness c, crcSecond w.cfg.endianness c] = bs ++ more ∧
      bs.length = crcBytesFed w.cfg.endianness c w.crc ∧ FeedsTo bs w (raiseError crcError w) := by
  have hfirst := feedByte_firstCRC hs (crcFirst w.cfg.endianness c)
  unfold crcBytesFed
  by_cases h1 : crcFirst w.cfg.endianness c = crcFirst w.cfg.endianness w.crc
  · have h2 : crcSecond w.cfg.endianness c ≠ crcSecond w.cfg.endianness w.crc := fun h2 => hc (by
      rw [← crcOf_wire w.cfg.endianness c, h1, h2, crcOf_wire])
    rw [onFirstCRC, if_pos h1] at hfirst
    refine ⟨[_, _], [], rfl, (if_pos h1).symm, .cons hfirst nofun (.single (congrArg Host.Outcome.next ?_))⟩
    rw [onSecondCRC, if_neg h2]
    rfl
  · rw [onFirstCRC, if_neg h1] at hfirst
    exact ⟨[_], [_], rfl, (if_neg h1).symm, .single hfirst⟩

end Crc

section Ends

variable {s w : State} {body : List Byte} {addr fc : Byte} {address quantity : Word} {bc : Byte} {phases k : Nat}
  {P : State → Prop} {i : Instr} (hb : BodyFed s w body addr fc address quantity bc phases P)
  (hk : body.length = k + 1) (hl : configLegal s.cfg = true)
include hb hk hl

/-- A frame kind with the CRC of its body ends in `Complete`. -/
theorem BodyFed.completes {c : Word} (hc : c = crcOfBytes body)
    (hexec : exec i s = withLegalConfig s
      (deliverFrame (body ++ [crcFirst s.cfg.endianness c, crcSecond s.cfg.endianness c]) s)) :
    ∃ t u, exec i s = .next t ∧ FinishesIn (k + 2) t u ∧ EndsComplete s u ∧ P u ∧
      FrameFields s u addr fc address quantity bc (crcOfBytes body) phases := by
  have hf := hb.fields
  have hcfg : w.cfg = s.cfg := hf.cfg
  have hcrc : w.crc = c := hf.crc.trans hc.symm
  have hgood := feedsTo_goodCrc hb.state hf.dataToReceive
  rw [hcfg, hcrc] at hgood
  have hfeeds := hb.feeds.append (by simp [hb.state]) hgood
  obtain ⟨t, ht, hfin⟩ := hfeeds.finishes (more := []) (k := k + 2) (by simp [hk]) (.inr rfl) hl
    (by rw [List.append_nil]; exact hexec)
  exact ⟨t, _, ht, hfin, ⟨rfl, hb.error, congrArg (· ++ [Event.onComplete]) hb.events⟩, hb.payload _ rfl rfl,
    hf.slaveAddress, hf.functionCode, hf.address, hf.quantity, hf.byteCount, hf.crc, hf.phaseIdx, hf.dataToReceive,
    hf.cfg, hf.script, rfl, hf.returned⟩

/-- A frame kind with another CRC ends in `Error(CRCError)`, its fields and payload as in a good frame. -/
theorem BodyFed.failsCrc {c : Word} (hc : c ≠ crcOfBytes body)
    (hexec : exec i s = withLegalConfig s
      (deliverFrame (body ++ [crcFirst s.cfg.endianness c, crcSecond s.cfg.endianness c]) s)) :
    ∃ t u, exec i s = .next t ∧ FinishesIn (k + crcBytesFed s.cfg.endianness c (crcOfBytes body)) t u ∧
      EndsInError s u 21 ∧ P u ∧ FrameFields s u addr fc address quantity bc (crcOfBytes body) phases := by
  have hf := hb.fields
  have hcfg : w.cfg = s.cfg := hf.cfg
  have hcrc : w.crc = crcOfBytes body := hf.crc
  obtain ⟨bs, more, hsplit, hlen, hbad⟩ := feedsTo_badCrc hb.state (c := c) (hcrc.symm ▸ hc)
  rw [hcfg] at hsplit
  rw [hcfg, hcrc] at hlen
  have hfeeds := hb.feeds.append (by simp [hb.state]) hbad
  rw [hsplit, ← List.append_assoc] at hexec
  obtain ⟨t, ht, hfin⟩ := hfeeds.finishes (k := k + crcBytesFed s.cfg.endianness c (crcOfBytes body))
    (by rw [List.length_append, hk, hlen]; omega) (.inl rfl) hl hexec
  exact ⟨t, _, ht, hfin, ⟨rfl, rfl, congrArg (· ++ [Event.onError]) hb.events⟩, hb.payload _ rfl rfl,
    hf.slaveAddress, hf.functionCode, hf.address, hf.quantity, hf.byteCount, hf.crc, hf.phaseIdx, hf.dataToReceive,
    hf.cfg, hf.script, rfl, hf.returned⟩

end Ends

/-! ## The frame kinds, by format -/

section Kinds

variable {role : Role} {fc : Byte}

theorem kind_BC {mk : Byte → Byte → List Byte → Word → Instr}
    (ht : phaseTable role fc = some [.byteCount, .data])
    (hexec : ∀ s addr bc data crc, exec (mk addr bc data crc) s =
      withLegalConfig s (deliverFrame (wireBC s.cfg.endianness addr fc bc data crc) s)) :
    CompletesBC role fc mk ∧ FailsCrcBC role fc mk := by
  refine ⟨fun s addr bc data h hlen h0 hle hfit => ?_,
    fun s addr bc data crc good h hlen h0 hle hfit hgood hc => ?_⟩
  · obtain ⟨w, hb⟩ := bodyFed_BC h ht hlen h0 hle hfit
    exact hb.completes (k := bc.toNat + 2) (by simp [hlen]) h.legal rfl (hexec s addr bc data _)
  · obtain ⟨w, hb⟩ := bodyFed_BC h ht hlen h0 hle hfit
    subst hgood
    exact hb.failsCrc (k := bc.toNat + 2) (by simp [hlen]) h.legal hc (hexec s addr bc data crc)

theorem kind_AV {mk : Byte → Word → Byte → Byte → Word → Instr}
    (ht : phaseTable role fc = some [.address, .address, .data])
    (hexec : ∀ s addr reg v1 v2 crc, exec (mk addr reg v1 v2 crc) s =
      withLegalConfig s (deliverFrame (wireAV s.cfg.endianness addr fc reg v1 v2 crc) s)) :
    CompletesAV role fc mk ∧ FailsCrcAV role fc mk := by
  refine ⟨fun s addr reg v1 v2 crc h hfit hc => ?_, fun s addr reg v1 v2 crc good h hfit hgood hc => ?_⟩
  · obtain ⟨w, hb⟩ := bodyFed_AV (v1 := v1) (v2 := v2) h ht reg hfit
    subst hc
    exact hb.completes (k := 5) rfl h.legal rfl (hexec s addr reg v1 v2 _)
  · obtain ⟨w, hb⟩ := bodyFed_AV (v1 := v1) (v2 := v2) h ht reg hfit
    subst hgood
    exact hb.failsCrc (k := 5) rfl h.legal hc (hexec s addr reg v1 v2 crc)

theorem kind_AQ {mk : Byte → Word → Word → Word → Instr}
    (ht : phaseTable role fc = some [.address, .address, .quantity, .quantity])
    (hexec : ∀ s addr start qty crc, exec (mk addr start qty crc) s =
      withLegalConfig s (deliverFrame (wireAQ s.cfg.endianness addr fc start qty crc) s)) :
    CompletesAQ role fc mk ∧ FailsCrcAQ role fc mk := by
  refine ⟨fun s addr start qty crc h hq hc => ?_, fun s addr start qty crc good h hq hgood hc => ?_⟩
  · obtain ⟨w, hb⟩ := bodyFed_AQ h ht start hq
    subst hc
    exact hb.completes (k := 5) rfl h.legal rfl (hexec s addr start qty _)
  · obtain ⟨w, hb⟩ := bodyFed_AQ h ht start hq
    subst hgood
    exact hb.failsCrc (k := 5) rfl h.legal hc (hexec s addr start qty crc)

theorem kind_AQBD {mk : Byte → Word → Word → Byte → List Byte → Word → Instr}
    (ht : phaseTable role fc = some [.address, .address, .quantity, .quantity, .byteCount, .data])
    (hexec : ∀ s addr start qty bc data crc, exec (mk addr start qty bc data crc) s =
      withLegalConfig s (deliverFrame (wireAQBD s.cfg.endianness addr fc start qty bc data crc) s)) :
    CompletesAQBD role fc mk ∧ FailsCrcAQBD role fc mk := by
  refine ⟨fun s addr start qty bc data crc h hq hlen h0 hle hfit hc => ?_,
    fun s addr start qty bc data crc good h hq hlen h0 hle hfit hgood hc => ?_⟩
  · obtain ⟨w, hb⟩ := bodyFed_AQBD h ht start hq hlen h0 hle hfit
    subst hc
    exact hb.completes (k := bc.toNat + 6) (by simp [hlen]) h.legal rfl (hexec s addr start qty bc data _)
  · obtain ⟨w, hb⟩ := bodyFed_AQBD h ht start hq hlen h0 hle hfit
    subst hgood
    exact hb.failsCrc (k := bc.toNat + 6) (by simp [hlen]) h.legal hc (hexec s addr start qty bc data crc)

end Kinds

theorem kind_rsp01 : CompletesBC .response 0x01 .rsp01 ∧ FailsCrcBC .response 0x01 .rsp01 :=
  kind_BC rfl fun _ _ _ _ _ => rfl
theorem kind_rsp02 : CompletesBC .response 0x02 .rsp02 ∧ FailsCrcBC .response 0x02 .rsp02 :=
  kind_BC rfl fun _ _ _ _ _ => rfl
theorem kind_rsp03 : CompletesBC .response 0x03 .rsp03 ∧ FailsCrcBC .response 0x03 .rsp03 :=
  kind_BC rfl fun _ _ _ _ _ => rfl
theorem kind_rsp04 : CompletesBC .response 0x04 .rsp04 ∧ FailsCrcBC .response 0x04 .rsp04 :=
  kind_BC rfl fun _ _ _ _ _ => rfl
theorem kind_rsp05 : CompletesAV .response 0x05 .rsp05 ∧ FailsCrcAV .response 0x05 .rsp05 :=
  kind_AV rfl fun _ _ _ _ _ _ => rfl
theorem kind_rsp06 : CompletesAV .response 0x06 .rsp06 ∧ FailsCrcAV .response 0x06 .rsp06 :=
  kind_AV rfl fun _ _ _ _ _ _ => rfl
theorem kind_req05 : CompletesAV .request 0x05 .req05 ∧ FailsCrcAV .request 0x05 .req05 :=
  kind_AV rfl fun _ _ _ _ _ _ => rfl
theorem kind_req06 : CompletesAV .request 0x06 .req06 ∧ FailsCrcAV .request 0x06 .req06 :=
  kind_AV rfl fun _ _ _ _ _ _ => rfl
theorem kind_rsp0F : CompletesAQ .response 0x0F .rsp0F ∧ FailsCrcAQ .response 0x0F .rsp0F :=
  kind_AQ rfl fun _ _ _ _ _ => rfl
theorem kind_rsp10 : CompletesAQ .response 0x10 .rsp10 ∧ FailsCrcAQ .response 0x10 .rsp10 :=
  kind_AQ rfl fun _ _ _ _ _ => rfl
theorem kind_req01 : CompletesAQ .request 0x01 .req01 ∧ FailsCrcAQ .request 0x01 .req01 :=
  kind_AQ rfl fun _ _ _ _ _ => rfl
theorem kind_req02 : CompletesAQ .request 0x02 .req02 ∧ FailsCrcAQ .request 0x02 .req02 :=
  kind_AQ rfl fun _ _ _ _ _ => rfl
theorem kind_req03 : CompletesAQ .request 0x03 .req03 ∧ FailsCrcAQ .request 0x03 .req03 :=
  kind_AQ rfl fun _ _ _ _ _ => rfl
theorem kind_req04 : CompletesAQ .request 0x04 .req04 ∧ FailsCrcAQ .request 0x04 .req04 :=
  kind_AQ rfl fun _ _ _ _ _ => rfl
theorem kind_req0F : CompletesAQBD .request 0x0F .req0F ∧ FailsCrcAQBD .request 0x0F .req0F :=
  kind_AQBD rfl fun _ _ _ _ _ _ _ => rfl
theorem kind_req10 : CompletesAQBD .request 0x10 .req10 ∧ FailsCrcAQBD .request 0x10 .req10 :=
  kind_AQBD rfl fun _ _ _ _ _ _ _ => rfl

/-- Settles O36: the four kinds of format BC. -/
theorem byteCountFramesComplete : Obligations.ByteCountFramesComplete :=
  ⟨kind_rsp01.1, kind_rsp02.1, kind_rsp03.1, kind_rsp04.1⟩

/-- Settles O37: the four kinds of format AV. -/
theorem addressValueFramesComplete : Obligations.AddressValueFramesComplete :=
  ⟨kind_rsp05.1, kind_rsp06.1, kind_req05.1, kind_req06.1⟩

/-- Settles O38: the six kinds of format AQ. -/
theorem addressQuantityFramesComplete : Obligations.AddressQuantityFramesComplete :=
  ⟨kind_rsp0F.1, kind_rsp10.1, kind_req01.1, kind_req02.1, kind_req03.1, kind_req04.1⟩

/-- Settles O39: the two kinds of format AQBD. -/
theorem writeMultipleFramesComplete : Obligations.WriteMultipleFramesComplete := ⟨kind_req0F.1, kind_req10.1⟩

/-- Settles O43: the same bodies before a wrong CRC. -/
theorem wrongCrcEndsInCrcError : Obligations.WrongCrcEndsInCrcError :=
  ⟨⟨kind_rsp01.2, kind_rsp02.2, kind_rsp03.2, kind_rsp04.2⟩,
    ⟨kind_rsp05.2, kind_rsp06.2, kind_req05.2, kind_req06.2⟩,
    ⟨kind_rsp0F.2, kind_rsp10.2, kind_req01.2, kind_req02.2, kind_req03.2, kind_req04.2⟩,
    kind_req0F.2, kind_req10.2⟩

/-! ## Frames that end early -/

section Early

variable {s : State} {role : Role} {addr fc : Byte} {i : Instr} (h : TakesFrame s role addr)
include h

/-- An exception frame raises its code (R203). -/
theorem exceptionFrame_ends {code : Byte} (hm : fc.msb = true)
    (hexec : exec i s = withLegalConfig s (deliverFrame (wireEXC addr fc code) s)) :
    ∃ t u, exec i s = .next t ∧ FinishesIn 2 t u ∧ EndsInError s u code ∧ BufferFree u ∧
      FrameFields s u addr 0 0 0 0 (crcOfBytes [addr]) 0 := by
  have hfc : feedByte fc (addressed s addr) = .next { addressed s addr with state := .modbusException } :=
    congrArg Host.Outcome.next (onFunctionCode_of_msb (addressed s addr) hm)
  have hfeeds : FeedsTo [addr, fc, code] s (raiseError code { addressed s addr with state := .modbusException }) :=
    .cons (feedByte_addr h) (by simp [addressed]) (.cons hfc (by simp) (.single rfl))
  obtain ⟨t, ht, hfin⟩ := hfeeds.finishes (more := []) (k := 2) rfl (.inr rfl) h.legal hexec
  exact ⟨t, _, ht, hfin, ⟨rfl, rfl, rfl⟩, ⟨rfl, rfl, rfl, rfl, rfl⟩,
    rfl, rfl, rfl, rfl, rfl, rfl, rfl, rfl, rfl, rfl, rfl, rfl⟩

/-- An illegal function code raises on its byte (R198, D9). -/
theorem illegalFrame_ends (hm : fc.msb = false) (hs : supportedCodes.contains fc = false)
    (hexec : exec i s = withLegalConfig s (deliverFrame (wireIllegal addr fc) s)) :
    ∃ t u, exec i s = .next t ∧ FinishesIn 1 t u ∧ EndsInError s u 1 ∧ BufferFree u ∧
      FrameFields s u addr 0 0 0 0 (crcOfBytes [addr]) 0 := by
  have hmem : fc ∉ supportedCodes := fun hin => by
    rw [(supportedCodes_contains fc).mpr hin] at hs
    cases hs
  have hfc : feedByte fc (addressed s addr) = .next (raiseError illegalFunction (addressed s addr)) :=
    congrArg Host.Outcome.next (onFunctionCode_of_illegal (addressed s addr) hm hmem)
  have hfeeds : FeedsTo [addr, fc] s (raiseError illegalFunction (addressed s addr)) :=
    .cons (feedByte_addr h) (by simp [addressed]) (.single hfc)
  obtain ⟨t, ht, hfin⟩ := hfeeds.finishes (more := []) (k := 1) rfl (.inr rfl) h.legal hexec
  exact ⟨t, _, ht, hfin, ⟨rfl, rfl, rfl⟩, ⟨rfl, rfl, rfl, rfl, rfl⟩,
    rfl, rfl, rfl, rfl, rfl, rfl, rfl, rfl, rfl, rfl, rfl, rfl⟩

/-- A zero quantity ends the frame on its second byte, whatever follows (R200). -/
theorem zeroQuantity_ends {rest : List ParserState}
    (ht : phaseTable role fc = some (.address :: .address :: .quantity :: .quantity :: rest)) {start : Word}
    (more : List Byte)
    (hexec : exec i s = withLegalConfig s (deliverFrame ([addr, fc, fieldFirst s.cfg.endianness start,
      fieldSecond s.cfg.endianness start, fieldFirst s.cfg.endianness 0, fieldSecond s.cfg.endianness 0] ++ more) s)) :
    ∃ t u, exec i s = .next t ∧ FinishesIn 5 t u ∧ EndsInError s u 3 ∧ BufferFree u ∧ u.address = start ∧
      u.quantity = 0 := by
  have hfeeds := feedsTo_quantityField h ht start 0
  rw [if_pos rfl] at hfeeds
  obtain ⟨t, ht, hfin⟩ := hfeeds.finishes (k := 5) rfl (.inl rfl) h.legal hexec
  exact ⟨t, _, ht, hfin, ⟨rfl, rfl, rfl⟩, ⟨rfl, rfl, rfl, rfl, rfl⟩, rfl, rfl⟩

/-- A refused byte count ends a `BC` frame on its third byte (R201). -/
theorem badCount_ends_BC {bc : Byte} {data : List Byte} {crc : Word}
    (ht : phaseTable role fc = some [.byteCount, .data]) (hbad : bc = 0 ∨ s.cfg.byteCountLimit < bc.toNat)
    (hexec : exec i s = withLegalConfig s (deliverFrame (wireBC s.cfg.endianness addr fc bc data crc) s)) :
    ∃ t u, exec i s = .next t ∧ FinishesIn 2 t u ∧ EndsInError s u 3 ∧ BufferFree u ∧ u.byteCount = 0 := by
  have hfeeds := (feedsTo_opened h ht rfl).append (by simp [opened])
    (feedsTo_badCount (u := opened s addr fc .byteCount) rfl hbad)
  obtain ⟨t, ht, hfin⟩ := hfeeds.finishes (k := 2) rfl (.inl rfl) h.legal hexec
  exact ⟨t, _, ht, hfin, ⟨rfl, rfl, rfl⟩, ⟨rfl, rfl, rfl, rfl, rfl⟩, rfl⟩

/-- And an `AQBD` frame on its seventh. -/
theorem badCount_ends_AQBD {start qty : Word} {bc : Byte} {data : List Byte} {crc : Word}
    (ht : phaseTable role fc = some [.address, .address, .quantity, .quantity, .byteCount, .data]) (hq : qty ≠ 0)
    (hbad : bc = 0 ∨ s.cfg.byteCountLimit < bc.toNat)
    (hexec : exec i s = withLegalConfig s
      (deliverFrame (wireAQBD s.cfg.endianness addr fc start qty bc data crc) s)) :
    ∃ t u, exec i s = .next t ∧ FinishesIn 6 t u ∧ EndsInError s u 3 ∧ BufferFree u ∧ u.quantity = qty ∧
      u.byteCount = 0 := by
  have hfeeds := (feedsTo_measured h ht start hq).append (by simp [measured, located])
    (feedsTo_badCount (u := measured s addr fc start qty .byteCount) rfl hbad)
  obtain ⟨t, ht, hfin⟩ := hfeeds.finishes (k := 6) rfl (.inl rfl) h.legal hexec
  exact ⟨t, _, ht, hfin, ⟨rfl, rfl, rfl⟩, ⟨rfl, rfl, rfl, rfl, rfl⟩, rfl, rfl⟩

end Early

/-- Settles O40: both roles feed the same three bytes. -/
theorem exceptionFramesEndInTheirCode : Obligations.ExceptionFramesEndInTheirCode := fun _ _ _ _ hm =>
  ⟨fun h => exceptionFrame_ends h hm rfl, fun h => exceptionFrame_ends h hm rfl⟩

/-- Settles O41: both roles feed the same two bytes. -/
theorem illegalFramesEndInIllegalFunction : Obligations.IllegalFramesEndInIllegalFunction := fun _ _ _ hm hs =>
  ⟨fun h => illegalFrame_ends h hm hs rfl, fun h => illegalFrame_ends h hm hs rfl⟩

/-- Settles O42: the part of the frame up to the error is fed, and the error cuts off the rest. -/
theorem structuralErrorsEndTheFrame : Obligations.StructuralErrorsEndTheFrame := by
  refine ⟨fun s addr start crc h i hi => ?_, fun s addr start bc data crc h i hi => ?_,
    fun s addr bc data crc h hbad i hi => ?_, fun s addr start qty bc data crc h hq hbad i hi => ?_⟩ <;>
    simp only [List.mem_cons, List.not_mem_nil, or_false] at hi
  · rcases hi with rfl | rfl <;> exact zeroQuantity_ends h rfl [_, _] rfl
  · rcases hi with rfl | rfl | rfl | rfl | rfl | rfl
    iterate 4 exact zeroQuantity_ends h rfl [_, _] rfl
    iterate 2 exact zeroQuantity_ends h rfl (bc :: (data ++ [_, _])) rfl
  · rcases hi with rfl | rfl | rfl | rfl <;> exact badCount_ends_BC h rfl hbad rfl
  · rcases hi with rfl | rfl <;> exact badCount_ends_AQBD h rfl hq hbad rfl

/-! ## A frame kind against FEEDN -/

/-- One pass does the same for a frame and for a FEEDN, but for the latch and the kind. -/
theorem deliver_frame_eq_feedn (n : Nat) (bs : List Byte) (s : State) :
    deliver .frame n bs s = andThen (deliver .feedn n bs s) fun t => .next { t with
      returned := s.returned, delivery := t.delivery.map fun d => { d with kind := .frame } } := by
  cases bs with
  | nil => rfl
  | cons b bs =>
    rw [deliver, deliver]
    cases hf : feedByte b s with
    | fault f => rfl
    | refused r => rfl
    | next t =>
      obtain ⟨-, -, -, hreturned⟩ := feedByte_keeps hf
      rw [andThen_next, andThen_next, andThen_next, afterByte_eq_ite, afterByte_eq_ite, ← hreturned]
      split <;> rfl

/-- A frame has a function code. -/
theorem encode_frame_ne_nil {cfg : Config} {i : Instr} {addr : Byte} {rest : List Byte}
    (h : encode cfg i = some (.frame (addr :: rest))) : rest ≠ [] := by
  cases i with
  | nop | feed | reset | feedn | crcReset | crcFold | crcValue | bufAlloc | bufFree | bufRead | bufWrite
  | dispatchFor | advance | hSlaveAddress | hFunctionCode | hAddress | hQuantity | hByteCount | hData
  | hModbusException | hFirstCRC | hSecondCRC => cases h
  | _ =>
    obtain ⟨-, hbytes⟩ := frameFor_eq_some h
    cases hbytes
    exact List.cons_ne_nil _ _

/-- Settles O44: both feed the bytes the frame is encoded as; the first of them at a frame start is the address. -/
theorem frameKindIsFeednOfItsBytes : Obligations.FrameKindIsFeednOfItsBytes := by
  refine ⟨fun i s bytes h => ?_, fun i s addr rest h htakes => ?_⟩
  · have hfeedn : exec (.feedn bytes) s = withLegalConfig s (deliver .feedn 0 bytes s) := rfl
    rw [exec_of_encode_frame h, hfeedn, deliverFrame]
    cases hl : configLegal s.cfg with
    | false => rw [withLegalConfig_of_illegal hl, withLegalConfig_of_illegal hl, andThen_refused]
    | true => rw [withLegalConfig_of_legal hl, withLegalConfig_of_legal hl, deliver_frame_eq_feedn]
  · rw [exec_of_encode_frame h, withLegalConfig_of_legal htakes.legal, deliverFrame,
      deliver_cons (feedByte_addr htakes), afterByte_of_more (by simp [addressed]) (encode_frame_ne_nil h)]
    rfl

end Sys2Proof.Machine
end
